-- ==== Sys2Proof/Word.lean ====
section
/-! DEFINITION. The words of the block (00_scope.md R7): data are bytes, identities 24 bits, the CRC
register 16 bits. -/

namespace Sys2Proof

/-- One data byte (00_scope.md R7). -/
abbrev Byte := BitVec 8

/-- A 24-bit identity (00_scope.md R7). -/
abbrev Id24 := BitVec 24

/-- The CRC register and its results (00_scope.md R7). -/
abbrev Crc := BitVec 16

/-- A codeword of the Golay(20,8) code, c[0] the most significant bit (43_golay.md R170, R177). -/
abbrev Codeword := BitVec 20

end Sys2Proof
end

