-- ==== Sys2Proof/Config.lean ====
section
/-! DEFINITION. The implementation parameters of 00_scope.md R6, as plain data. A step reads them and never
changes them (70_reset_and_hazards.md R261). The defaults stand in Machine/Params.lean. The block has no
result the spec leaves open (93_implementation_defined.md, head), so there is no free value. -/

namespace Sys2Proof

/-- `MAXLEN` of 00_scope.md R6: fixed at 255 by the one-byte `LEN` field. -/
def maxLen : Nat := 255

/-- The size of the output buffer, `MAXLEN + 2` (10_state.md R29). -/
def obufSize : Nat := 257

/-- The parameters the source leaves to the implementation (00_scope.md R6), one field each. -/
structure Config where
  /-- `TAG_DATA`: what byte 0 of a wakeup frame must equal (44_csbk.md R190). -/
  tagData : Byte
  /-- `WAKEUP_FLAGS`: what byte 1 of a wakeup frame must equal (44_csbk.md R190). -/
  wakeupFlags : Byte
  /-- `OPC_BSDWNACT`: the CSBK opcode "Downlink Activate" (44_csbk.md R195). -/
  opcBsdwnact : BitVec 6
  /-- `OPC_UUVREQ`: the CSBK opcode "Unit-to-Unit Voice Request" (44_csbk.md R195). -/
  opcUuvreq : BitVec 6
  /-- `GOLAY_PAR`, which 43_golay.md R170 requires to be linear, by its eight rows: the check bits of
  0x80, 0x40, ..., 0x01 in that order (DEDUCED, safe: log 1). -/
  golayRows : Vector (BitVec 12) 8
  /-- `SLOT_BITPOS`: the frame bit index of each codeword bit, each below 168 (43_golay.md R173). -/
  slotBitPos : Vector (Fin 168) 20
deriving DecidableEq, Repr

end Sys2Proof
end

