-- ==== Sys2Proof/Syntax.lean ====
section
/-! DEFINITION. The fifteen commands of 30_encoding.md R73, one constructor per row of the opcode table. The
argument `data` is the command's `DATA`, the bytes `IBUF[0..LEN-1]`, so `LEN` is its length (R70). A length
that breaks a command's contract is a failure of a decoded command, not a refusal (R75), so every constructor
but `nop` takes data of any length. -/

namespace Sys2Proof

inductive Instr where
  /-- `NOP`, 46_system.md R220; it has no data (R74 case 3). -/
  | nop
  /-- `CRC.APPEND`, 40_crc.md R104. -/
  | crcAppend (data : List Byte)
  /-- `CRC.VERIFY`, 40_crc.md R105. -/
  | crcVerify (data : List Byte)
  /-- `BPTC.EXTRACT`, 41_bptc.md R126. -/
  | bptcExtract (data : List Byte)
  /-- `BPTC.DEINT`, 41_bptc.md R127. -/
  | bptcDeint (data : List Byte)
  /-- `BPTC.INTLV`, 41_bptc.md R128. -/
  | bptcIntlv (data : List Byte)
  /-- `BPTC.HAM8`, 41_bptc.md R129. -/
  | bptcHam8 (data : List Byte)
  /-- `BPTC.DECODE`, 41_bptc.md R130. -/
  | bptcDecode (data : List Byte)
  /-- `GF.MUL`, 42_rs.md R154. -/
  | gfMul (data : List Byte)
  /-- `RS.ENCODE`, 42_rs.md R155. -/
  | rsEncode (data : List Byte)
  /-- `RS.CHECK`, 42_rs.md R156. -/
  | rsCheck (data : List Byte)
  /-- `GOLAY.DECODE`, 43_golay.md R175. -/
  | golayDecode (data : List Byte)
  /-- `GOLAY.ENCODE`, 43_golay.md R176; `ARG` is `colorCode` then `dataType` (30_encoding.md R72). -/
  | golayEncode (colorCode dataType : BitVec 4) (data : List Byte)
  /-- `CSBK.PUT`, 44_csbk.md R196. -/
  | csbkPut (data : List Byte)
  /-- `DH.PUT`, 45_dataheader.md R211. -/
  | dhPut (data : List Byte)
deriving DecidableEq, Repr

end Sys2Proof
end

