-- ==== Sys2Proof/WellFormed.lean ====
section
/-! DEFINITION. The one check on a command's syntax: its data fit the one-byte `LEN` field (30_encoding.md R70,
R71: at most `MAXLEN` = 255 bytes). -/

namespace Sys2Proof

/-- The command's `DATA` (30_encoding.md R70). -/
def Instr.data (i : Instr) : List Byte :=
  match i with
  | .nop => []
  | .crcAppend d => d
  | .crcVerify d => d
  | .bptcExtract d => d
  | .bptcDeint d => d
  | .bptcIntlv d => d
  | .bptcHam8 d => d
  | .bptcDecode d => d
  | .gfMul d => d
  | .rsEncode d => d
  | .rsCheck d => d
  | .golayDecode d => d
  | .golayEncode _ _ d => d
  | .csbkPut d => d
  | .dhPut d => d

/-- A command that has an encoding: `LEN` is at most 255. -/
abbrev Instr.wf (i : Instr) : Prop := i.data.length ≤ maxLen

end Sys2Proof
end

