-- ==== Sys2Proof/Decode.lean ====
section
/-! DEFINITION. Command bytes to command and back (30_encoding.md): framing R71, the opcode map R73, the refused
encodings R74, in the order of R76. Total on every byte sequence, every rejection named. -/

namespace Sys2Proof

/-- Why a byte sequence decodes to no command. -/
inductive DecodeError where
  /-- Shorter than 3 bytes, or than `3 + LEN`: not a command, refused by name without a step (R71). -/
  | truncatedCommand
  /-- Longer than `3 + LEN`: not a command, refused by name without a step (R71). -/
  | trailingBytes
  /-- R74 case 1: `OPC` is not one of the fifteen. -/
  | unknownOpc
  /-- R74 case 2: format N and `ARG != 0x00`. -/
  | reservedArg
  /-- R74 case 3: `NOP` with `LEN != 0`. -/
  | nopWithData
deriving DecidableEq, Repr

/-- The two formats of R70: N has a reserved `ARG`, I an immediate. -/
inductive Format where
  | n
  | i
deriving DecidableEq, Repr

/-- One row of the opcode map: name, operation code, format, and the command of an `ARG` and `DATA`. -/
structure OpcodeRow where
  mnemonic : String
  opc : Byte
  format : Format
  build : Byte → List Byte → Instr

/-- The opcode map of R73, row by row. `ARG` of the format I row splits as R72 says. -/
def opcodeRows : List OpcodeRow :=
  [ ⟨"NOP", 0x00, .n, fun _ _ => .nop⟩,
    ⟨"CRC.APPEND", 0x01, .n, fun _ d => .crcAppend d⟩,
    ⟨"CRC.VERIFY", 0x02, .n, fun _ d => .crcVerify d⟩,
    ⟨"BPTC.EXTRACT", 0x10, .n, fun _ d => .bptcExtract d⟩,
    ⟨"BPTC.DEINT", 0x11, .n, fun _ d => .bptcDeint d⟩,
    ⟨"BPTC.INTLV", 0x12, .n, fun _ d => .bptcIntlv d⟩,
    ⟨"BPTC.HAM8", 0x13, .n, fun _ d => .bptcHam8 d⟩,
    ⟨"BPTC.DECODE", 0x14, .n, fun _ d => .bptcDecode d⟩,
    ⟨"GF.MUL", 0x20, .n, fun _ d => .gfMul d⟩,
    ⟨"RS.ENCODE", 0x21, .n, fun _ d => .rsEncode d⟩,
    ⟨"RS.CHECK", 0x22, .n, fun _ d => .rsCheck d⟩,
    ⟨"GOLAY.DECODE", 0x30, .n, fun _ d => .golayDecode d⟩,
    ⟨"GOLAY.ENCODE", 0x31, .i,
      fun arg d => .golayEncode (arg.extractLsb' 4 4) (arg.extractLsb' 0 4) d⟩,
    ⟨"CSBK.PUT", 0x40, .n, fun _ d => .csbkPut d⟩,
    ⟨"DH.PUT", 0x41, .n, fun _ d => .dhPut d⟩ ]

/-- The row an operation code selects (R73); none for the 241 reserved codes. -/
def rowOf (opc : Byte) : Option OpcodeRow :=
  opcodeRows.find? (fun r => r.opc == opc)

/-- The refusals of R74 on a well-framed command, in the order of R76: unknown `OPC`, reserved `ARG` not zero,
`NOP` with data. -/
def decodeFields (opc arg : Byte) (data : List Byte) : Except DecodeError Instr :=
  match rowOf opc with
  | none => .error .unknownOpc
  | some r =>
    if r.format = .n ∧ arg ≠ 0x00 then .error .reservedArg
    else if r.opc = 0x00 ∧ data ≠ [] then .error .nopWithData
    else .ok (r.build arg data)

/-- The decoder: a command is exactly `3 + LEN` bytes (R70, R71). -/
def decode (bytes : List Byte) : Except DecodeError Instr :=
  match bytes with
  | opc :: arg :: len :: data =>
    if data.length < len.toNat then .error .truncatedCommand
    else if len.toNat < data.length then .error .trailingBytes
    else decodeFields opc arg data
  | _ => .error .truncatedCommand

/-- The operation code of a command (R73). -/
def Instr.opc (i : Instr) : Byte :=
  match i with
  | .nop => 0x00
  | .crcAppend _ => 0x01
  | .crcVerify _ => 0x02
  | .bptcExtract _ => 0x10
  | .bptcDeint _ => 0x11
  | .bptcIntlv _ => 0x12
  | .bptcHam8 _ => 0x13
  | .bptcDecode _ => 0x14
  | .gfMul _ => 0x20
  | .rsEncode _ => 0x21
  | .rsCheck _ => 0x22
  | .golayDecode _ => 0x30
  | .golayEncode _ _ _ => 0x31
  | .csbkPut _ => 0x40
  | .dhPut _ => 0x41

/-- The `ARG` byte of a command: `color_code` in `ARG[7:4]`, `data_type` in `ARG[3:0]` for the one format I
command, 0x00 for every other (R72). -/
def Instr.arg (i : Instr) : Byte :=
  match i with
  | .golayEncode cc dt _ => cc ++ dt
  | .nop => 0x00
  | .crcAppend _ => 0x00
  | .crcVerify _ => 0x00
  | .bptcExtract _ => 0x00
  | .bptcDeint _ => 0x00
  | .bptcIntlv _ => 0x00
  | .bptcHam8 _ => 0x00
  | .bptcDecode _ => 0x00
  | .gfMul _ => 0x00
  | .rsEncode _ => 0x00
  | .rsCheck _ => 0x00
  | .golayDecode _ => 0x00
  | .csbkPut _ => 0x00
  | .dhPut _ => 0x00

/-- The encoder: `OPC ARG LEN DATA[LEN]` (R70). -/
def encode (i : Instr) : List Byte :=
  i.opc :: i.arg :: BitVec.ofNat 8 i.data.length :: i.data

/-- The bytes of the command whose header word is `w`, numbered as spec/opcode_table.json numbers it: the 24-bit
word H of R70 with `OPC = H[23:16]`, `ARG = H[15:8]`, `LEN = H[7:0]`, stored most significant byte first.
Data byte k is numbered from bit `24 + 8k` on; bits at and above `nbits` are 0 (log 9). -/
def commandBytesOfTableWord (nbits w : Nat) : List Byte :=
  let w := w % 2 ^ nbits
  let len := w % 256
  BitVec.ofNat 8 (w / 65536) :: BitVec.ofNat 8 (w / 256) :: BitVec.ofNat 8 len ::
    (List.range len).map (fun k => BitVec.ofNat 8 (w / 2 ^ (24 + 8 * k)))

/-- What the decoder gives on the bytes of a table word. -/
def decodeTableWord (nbits w : Nat) : Option Instr :=
  match decode (commandBytesOfTableWord nbits w) with
  | .ok i => some i
  | .error _ => none

end Sys2Proof
end

