-- ==== Sys2Proof/Machine/Bits.lean ====
section
/-! DEFINITION. Bit vectors and bytes (00_scope.md R8, R9, R10): index 0 of a bit vector is the most significant
bit of byte 0 (20_memory.md R53, R54). -/

namespace Sys2Proof.Machine

/-- The n-bit word whose bit i, counted from the least significant, is `f i`. -/
def ofBitsLsb : (n : Nat) → (Nat → Bool) → BitVec n
  | 0, _ => 0#0
  | n + 1, f => BitVec.cons (f n) (ofBitsLsb n f)

/-- The n-bit word whose bit i, counted from the most significant, is `f i`. -/
def ofBitsMsb (n : Nat) (f : Nat → Bool) : BitVec n :=
  ofBitsLsb n (fun i => f (n - 1 - i))

/-- `bitsof(B, n)` of R9: the first n bits of B, most significant bit of each byte first. -/
def bitsOf (bytes : List Byte) (n : Nat) : List Bool :=
  (List.range n).map (fun i => (bytes.getD (i / 8) 0#8).getMsbD (i % 8))

/-- `pack(v)` of R9: `ceil(n/8)` bytes, bit `7 - j` of byte k is `v[8k + j]`, every bit beyond n is 0. -/
def pack (v : List Bool) : List Byte :=
  (List.range ((v.length + 7) / 8)).map
    (fun k => ofBitsMsb 8 (fun j => v.getD (8 * k + j) false))

/-- `wt(v)` of R10: the number of 1 bits. -/
def wt {n : Nat} (v : BitVec n) : Nat :=
  (List.range n).countP (fun i => v.getLsbD i)

/-- `dist(a, b)` of R10. -/
def dist {n : Nat} (a b : BitVec n) : Nat := wt (a ^^^ b)

/-- A byte sequence as one big-endian natural (20_memory.md R53). -/
def beNat (bytes : List Byte) : Nat :=
  bytes.foldl (fun acc b => 256 * acc + b.toNat) 0

end Sys2Proof.Machine
end

