-- ==== Sys2Proof/Machine/Params.lean ====
section
/-! DEFINITION. The default of every parameter (00_scope.md R6; PRESUMED where the spec marks a value as general
knowledge: log 2). The reset state carries these; every statement quantifies over the configuration. -/

namespace Sys2Proof.Machine

/-- `TAG_DATA`, default 0x00 (R6). -/
def defaultTagData : Byte := 0x00

/-- `WAKEUP_FLAGS`, default 0x03 (R6). -/
def defaultWakeupFlags : Byte := 0x03

/-- `OPC_BSDWNACT`, default 0x38 (R6, general knowledge there: PRESUMED, unsafe, log 2). -/
def defaultOpcBsdwnact : BitVec 6 := 0x38

/-- `OPC_UUVREQ`, default 0x04 (R6, general knowledge there: PRESUMED, unsafe, log 2). -/
def defaultOpcUuvreq : BitVec 6 := 0x04

/-- One step of the division of 43_golay.md R171: clear bit i of r with the generator 0xC75 shifted to it. -/
def golayDivStep (r : BitVec 19) (i : Nat) : BitVec 19 :=
  if r.getLsbD i then r ^^^ (0xC75#19 <<< (i - 11)) else r

/-- `par11(m)` of 43_golay.md R171: the remainder of m(x) x^11 by 0xC75, bits 18 down to 11 cleared in turn. -/
def par11 (m : Byte) : BitVec 11 :=
  let r := m.setWidth 19 <<< 11
  ([18, 17, 16, 15, 14, 13, 12, 11].foldl golayDivStep r).setWidth 11

/-- The default `GOLAY_PAR` of 43_golay.md R171: `par11` and an even parity bit over `(m << 11) | par11(m)`. -/
def defaultGolayPar (m : Byte) : BitVec 12 :=
  par11 m ++ BitVec.ofBool (wt (m ++ par11 m) % 2 == 1)

/-- The default `GOLAY_PAR` by its rows, the table of 43_golay.md R171 for 0x80, 0x40, ..., 0x01 (PRESUMED, unsafe,
log 2: general knowledge there). That the pseudocode gives these is a test. -/
def defaultGolayRows : Vector (BitVec 12) 8 :=
  #v[0x3DA, 0xD99, 0x6CD, 0x367, 0xDC6, 0xA97, 0x93E, 0x8EB]

/-- The default `SLOT_BITPOS` of 43_golay.md R173 (PRESUMED, unsafe, log 2: partly general knowledge there). -/
def defaultSlotBitPos : Vector (Fin 168) 20 :=
  #v[98, 99, 100, 101, 102, 103, 104, 105, 106, 107, 156, 157, 158, 159, 160, 161, 162, 163, 164, 165]

/-- The default configuration (00_scope.md R6). -/
def defaultConfig : Config where
  tagData := defaultTagData
  wakeupFlags := defaultWakeupFlags
  opcBsdwnact := defaultOpcBsdwnact
  opcUuvreq := defaultOpcUuvreq
  golayRows := defaultGolayRows
  slotBitPos := defaultSlotBitPos

end Sys2Proof.Machine
end

