-- ==== Sys2Proof/Machine/State.lean ====
section
/-! DEFINITION. The state of the block (10_state.md R21, R29), its configuration (00_scope.md R6) and the two sides
of its interface (70_reset_and_hazards.md R263, R266), as plain data; why a step can stop; the state after
reset (R32). -/

namespace Sys2Proof.Machine

/-- The output buffer as a sparse memory: addresses strictly rising, no entry 0x00, which is what an unlisted
byte reads as (10_state.md R32). -/
abbrev Memory := List Host.Cell

/-- The status codes of 60_exceptions.md R230, by name; the numbers are `statusCode`. -/
inductive Status where
  | ok
  | dataTooShort
  | invalidLength
  | invalidCRC
  | fecUncorrectable
  | invalidWakeup
  | unsupportedOpcode
  | illegalCommand
deriving DecidableEq, Repr

/-- The unit group `CSBK.*`, registers 0x10 to 0x19 of 10_state.md R21. -/
structure Csbk where
  v : Bool
  csbko : BitVec 6
  fid : Byte
  gi : Bool
  cbf : Bool
  ovcm : Bool
  bsid : Id24
  srcid : Id24
  dstid : Id24
  data : BitVec 112
deriving DecidableEq, Repr

/-- The unit group `DH.*`, registers 0x20 to 0x25 of 10_state.md R21. -/
structure DataHeader where
  v : Bool
  gi : Bool
  a : Bool
  dstid : Id24
  srcid : Id24
  data : BitVec 96
deriving DecidableEq, Repr

/-- The unit group `ST.*`, registers 0x30 to 0x33 of 10_state.md R21. -/
structure SlotType where
  v : Bool
  cc : BitVec 4
  dt : BitVec 4
  nerr : BitVec 2
deriving DecidableEq, Repr

/-- Every `CSBK.*` register 0 (10_state.md R27, R32). -/
def Csbk.zero : Csbk :=
  { v := false, csbko := 0, fid := 0, gi := false, cbf := false, ovcm := false, bsid := 0, srcid := 0,
    dstid := 0, data := 0 }

/-- Every `DH.*` register 0 (10_state.md R27, R32). -/
def DataHeader.zero : DataHeader :=
  { v := false, gi := false, a := false, dstid := 0, srcid := 0, data := 0 }

/-- Every `ST.*` register 0 (10_state.md R27, R32). -/
def SlotType.zero : SlotType :=
  { v := false, cc := 0, dt := 0, nerr := 0 }

/-- What the host can do, one event at a time (70_reset_and_hazards.md R263): issue a command, read a register by
number, read an output byte, assert `RESET`. -/
inductive HostEvent where
  | command (bytes : List Byte)
  | readReg (number : Nat)
  | readObuf (index : Nat)
  | reset
deriving DecidableEq, Repr

/-- What the host gets back: after a command `STATUS`, `T`, `OLEN` and `OBUF[0..OLEN-1]` (60_exceptions.md R235);
after a read the value, a register's zero-extended to the widest register (10_state.md R31; log 10). -/
inductive Response where
  | done (status : Byte) (t : Bool) (olen : BitVec 9) (out : List Byte)
  | register (value : BitVec 112)
  | obufByte (value : Byte)
deriving DecidableEq, Repr

/-- The whole machine. -/
structure State where
  /-- `STATUS`, number 0x00 (10_state.md R21). -/
  status : Byte
  /-- `T`, number 0x01. -/
  t : Bool
  /-- `OLEN`, number 0x02. -/
  olen : BitVec 9
  /-- `HAMC`, number 0x03: bit k for group k changed. -/
  hamc : BitVec 24
  /-- `HAMU`, number 0x04: bit k for group k uncorrectable. -/
  hamu : BitVec 24
  /-- `CRCVAL`, number 0x05 (R33). -/
  crcval : Crc
  /-- The unit group `CSBK.*` (R24). -/
  csbk : Csbk
  /-- The unit group `DH.*` (R25). -/
  dh : DataHeader
  /-- The unit group `ST.*` (R26). -/
  st : SlotType
  /-- `OBUF`, 257 bytes (R29). -/
  obuf : Memory
  /-- The parameters of this block, which nothing changes (00_scope.md R6; log 1). -/
  cfg : Config
  /-- The command port: the host's events in issue order, the next one first (70 R263, R266; log 3). -/
  port : List HostEvent
  /-- The response of the last command or read (60 R235; 10 R31; log 4). -/
  response : Option Response
deriving DecidableEq, Repr

/-- What stops the machine. The spec gives the block no such case (93_implementation_defined.md, head). -/
inductive Fault where
  /-- Raised by `emit` when an output would be longer than `OBUF`. Safe: only a `CRC.APPEND` term of more than
  255 data bytes gets here, and no bytes decode to one (log 6). -/
  | obufOverrun
deriving DecidableEq, Repr

/-- What the model rejects by name without a step of the block. -/
inductive Refusal where
  /-- Raised by `exec` for an instruction without a meaning; no arm does. Safe. -/
  | notModelled (mnemonic : String)
  /-- Raised by the port for fewer than `3 + LEN` bytes (30_encoding.md R71). Safe. -/
  | truncatedCommand
  /-- Raised by the port for more than `3 + LEN` bytes (30_encoding.md R71). Safe. -/
  | trailingBytes
  /-- Raised by a host read of a register number outside the table (10_state.md R21). Safe. -/
  | undefinedRegister (number : Nat)
  /-- Raised by a host read of `OBUF[i]` with i above 256 (10_state.md R31, 93 section 2). Safe. -/
  | undefinedObufIndex (index : Nat)
deriving DecidableEq, Repr

/-- What a command or an event leads to. -/
abbrev Result := Host.Outcome State Fault Refusal

/-- The state after reset: every result register 0, every byte of `OBUF` 0x00 (10_state.md R32); the default
configuration (log 2); nothing on the port (log 3) and no response yet (log 4). -/
def State.reset : State :=
  { status := 0x00, t := false, olen := 0, hamc := 0, hamu := 0, crcval := 0,
    csbk := Csbk.zero, dh := DataHeader.zero, st := SlotType.zero, obuf := [],
    cfg := defaultConfig, port := [], response := none }

end Sys2Proof.Machine
end

