-- ==== Sys2Proof/Machine/Flags.lean ====
section
/-! DEFINITION. Status codes and flags (60_exceptions.md R230; 10_state.md R23): the codes, the truth flag, and
the two masks that report the Hamming groups. -/

namespace Sys2Proof.Machine

/-- The code of a status (60_exceptions.md R230). -/
def statusCode (st : Status) : Byte :=
  match st with
  | .ok => 0x00
  | .dataTooShort => 0x01
  | .invalidLength => 0x02
  | .invalidCRC => 0x03
  | .fecUncorrectable => 0x04
  | .invalidWakeup => 0x05
  | .unsupportedOpcode => 0x06
  | .illegalCommand => 0x07

/-- What became of one Hamming group (41_bptc.md R122). -/
inductive HamClass where
  | clean
  | corrected
  | uncorrectable
deriving DecidableEq, Repr

/-- The 24-bit mask with bit k set when group k is of class c (10_state.md R21, `HAMC` and `HAMU`). -/
def classMask (c : HamClass) (classes : List HamClass) : BitVec 24 :=
  ofBitsLsb 24 (fun k => classes[k]? == some c)

end Sys2Proof.Machine
end

