-- ==== Sys2Proof/Machine/Operands.lean ====
section
/-! DEFINITION. Operands of a command: its data bytes `IBUF` (20_memory.md R50), big-endian reads of them
(00_scope.md R10, R11), the immediate of format I (30_encoding.md R72), and bytes of the CRC trailer. -/

namespace Sys2Proof.Machine

/-- `IBUF[i]` (20_memory.md R50). Every use has `i < LEN`: a command holds `LEN` to its contract first. -/
def ibuf (data : List Byte) (i : Nat) : Byte := data.getD i 0#8

/-- `IBUF[a] ‖ ... ‖ IBUF[a+n-1]`, the bytes of `MemRead(a, n)` (00_scope.md R11). -/
def ibufSlice (data : List Byte) (a n : Nat) : List Byte := (data.drop a).take n

/-- `be24(B, i)`: a 24-bit big-endian read (00_scope.md R10). -/
def be24 (bytes : List Byte) (i : Nat) : Id24 :=
  bytes.getD i 0#8 ++ bytes.getD (i + 1) 0#8 ++ bytes.getD (i + 2) 0#8

/-- The information byte of a slot type, the color code in the high nibble: `ARG` of `GOLAY.ENCODE`
(30_encoding.md R72, 43_golay.md R174). -/
def slotTypeByte (colorCode dataType : BitVec 4) : Byte := colorCode ++ dataType

/-- `v[15:8]`, the byte at the lower index of a trailer (40_crc.md R103). -/
def hiByte (c : Crc) : Byte := c.extractLsb' 8 8

/-- `v[7:0]`, the byte at the higher index of a trailer (40_crc.md R103). -/
def loByte (c : Crc) : Byte := c.extractLsb' 0 8

end Sys2Proof.Machine
end

