-- ==== Sys2Proof/Machine/Ops.lean ====
section
/-! DEFINITION. The named operations over `OBUF` and the registers: the output buffer, the common prologue
(10_state.md R27), taking a failure (60_exceptions.md R232), completing (R230 `OK`), the host's reads
(10_state.md R31) and reset (70_reset_and_hazards.md R261). -/

namespace Sys2Proof.Machine

/-! ### The output buffer -/

/-- The canonical form: addresses strictly rising and below 257 (10_state.md R29), no entry 0x00. -/
abbrev Memory.wf (m : Memory) : Prop :=
  m.Pairwise (fun c d => c.1 < d.1) ∧ ∀ c ∈ m, c.1 < obufSize ∧ c.2 ≠ 0#8

/-- `OBUF[a]`; an unlisted byte reads 0x00 (10_state.md R32; log 5). -/
def Memory.read (m : Memory) (a : Nat) : Byte :=
  match m with
  | [] => 0#8
  | c :: rest => if c.1 = a then c.2 else Memory.read rest a

/-- `OBUF[a] <- b`, keeping the canonical form. -/
def Memory.write (m : Memory) (a : Nat) (b : Byte) : Memory :=
  match m with
  | [] => if b = 0#8 then [] else [(a, b)]
  | c :: rest =>
    if a < c.1 then (if b = 0#8 then c :: rest else (a, b) :: c :: rest)
    else if a = c.1 then (if b = 0#8 then rest else (a, b) :: rest)
    else c :: Memory.write rest a b

/-- `OBUF[a..] <- bytes`, byte by byte (00_scope.md R11, `MemWrite` and `emit`). -/
def Memory.writeBytes (m : Memory) (a : Nat) (bytes : List Byte) : Memory :=
  match bytes with
  | [] => m
  | b :: rest => Memory.writeBytes (Memory.write m a b) (a + 1) rest

/-- `for i in 0..256: OBUF[i] <- 0x00` (10_state.md R27): nothing stays listed. -/
def Memory.cleared : Memory := []

/-- The bytes `OBUF[0..n-1]`. -/
def Memory.firstBytes (m : Memory) (n : Nat) : List Byte :=
  (List.range n).map (Memory.read m)

/-! ### Register writes, one operation each -/

def setStatus (st : Status) (s : State) : State := { s with status := statusCode st }

/-- `T <- b` (10_state.md R23). -/
def setTruth (b : Bool) (s : State) : State := { s with t := b }

/-- `HAMC <- hamc; HAMU <- hamu`. -/
def setHam (hamc hamu : BitVec 24) (s : State) : State := { s with hamc := hamc, hamu := hamu }

/-- `CRCVAL <- c` (10_state.md R33). -/
def setCrcval (c : Crc) (s : State) : State := { s with crcval := c }

def setCsbk (g : Csbk) (s : State) : State := { s with csbk := g }

def setDh (g : DataHeader) (s : State) : State := { s with dh := g }

def setSt (g : SlotType) (s : State) : State := { s with st := g }

/-- `OBUF[0..n-1] <- bytes; OLEN <- n` where n is the number of bytes. -/
def writeOut (bytes : List Byte) (s : State) : State :=
  { s with obuf := Memory.writeBytes s.obuf 0 bytes, olen := BitVec.ofNat 9 bytes.length }

def setPort (p : List HostEvent) (s : State) : State := { s with port := p }

def setResponse (r : Option Response) (s : State) : State := { s with response := r }

/-! ### Running a command -/

/-- The common prologue (10_state.md R27). -/
def prologue (s : State) : State :=
  { s with status := statusCode .ok, t := false, olen := 0, hamc := 0, hamu := 0, crcval := 0,
           obuf := Memory.cleared }

/-- The prologue of `CSBK.PUT`, which also zeroes its group (10_state.md R27). -/
def prologueCsbk (s : State) : State := setCsbk Csbk.zero (prologue s)

/-- The prologue of `DH.PUT`, which also zeroes its group (10_state.md R27). -/
def prologueDh (s : State) : State := setDh DataHeader.zero (prologue s)

/-- The prologue of `GOLAY.DECODE`, which also zeroes its group (10_state.md R27). -/
def prologueSt (s : State) : State := setSt SlotType.zero (prologue s)

/-- `raise <Status>` (60_exceptions.md R232, R235): the command ends at once with the code in `STATUS`, and that is a
next state. All else R232 says follows from the prologue and the order of each command's writes. There is
nothing to return from (R236): the next command runs as after a success. -/
def raise (st : Status) (s : State) : Result := .next (setStatus st s)

/-- `STATUS <- OK`, the end of every command that completes (60_exceptions.md R230). -/
def complete (s : State) : Result := .next (setStatus .ok s)

/-- `emit(B); STATUS <- OK` (00_scope.md R11). An output longer than `OBUF` has nowhere to go (log 6). -/
def emit (bytes : List Byte) (s : State) : Result :=
  if bytes.length ≤ obufSize then complete (writeOut bytes s) else .fault .obufOverrun

/-- A contract `LEN = n`, else `InvalidLength` (30_encoding.md R75): the rest of the command runs only if it holds. -/
def requireLen (n : Nat) (data : List Byte) (s : State) (body : Result) : Result :=
  if data.length = n then body else raise .invalidLength s

/-- A contract `LEN >= n`, else `DataTooShort` (30_encoding.md R75). -/
def requireMinLen (n : Nat) (data : List Byte) (s : State) (body : Result) : Result :=
  if n ≤ data.length then body else raise .dataTooShort s

/-- A refused command (30_encoding.md R74): the prologue, then `IllegalCommand` (60_exceptions.md R242). -/
def refuseCommand (s : State) : Result := raise .illegalCommand (prologue s)

/-! ### The host's side -/

/-- The result register of a number, zero-extended to 112 bits; none outside the table (10_state.md R21, R31). -/
def readReg (s : State) (number : Nat) : Option (BitVec 112) :=
  match number with
  | 0x00 => some (s.status.setWidth 112)
  | 0x01 => some ((BitVec.ofBool s.t).setWidth 112)
  | 0x02 => some (s.olen.setWidth 112)
  | 0x03 => some (s.hamc.setWidth 112)
  | 0x04 => some (s.hamu.setWidth 112)
  | 0x05 => some (s.crcval.setWidth 112)
  | 0x10 => some ((BitVec.ofBool s.csbk.v).setWidth 112)
  | 0x11 => some (s.csbk.csbko.setWidth 112)
  | 0x12 => some (s.csbk.fid.setWidth 112)
  | 0x13 => some ((BitVec.ofBool s.csbk.gi).setWidth 112)
  | 0x14 => some ((BitVec.ofBool s.csbk.cbf).setWidth 112)
  | 0x15 => some ((BitVec.ofBool s.csbk.ovcm).setWidth 112)
  | 0x16 => some (s.csbk.bsid.setWidth 112)
  | 0x17 => some (s.csbk.srcid.setWidth 112)
  | 0x18 => some (s.csbk.dstid.setWidth 112)
  | 0x19 => some s.csbk.data
  | 0x20 => some ((BitVec.ofBool s.dh.v).setWidth 112)
  | 0x21 => some ((BitVec.ofBool s.dh.gi).setWidth 112)
  | 0x22 => some ((BitVec.ofBool s.dh.a).setWidth 112)
  | 0x23 => some (s.dh.dstid.setWidth 112)
  | 0x24 => some (s.dh.srcid.setWidth 112)
  | 0x25 => some (s.dh.data.setWidth 112)
  | 0x30 => some ((BitVec.ofBool s.st.v).setWidth 112)
  | 0x31 => some (s.st.cc.setWidth 112)
  | 0x32 => some (s.st.dt.setWidth 112)
  | 0x33 => some (s.st.nerr.setWidth 112)
  | _ => none

/-- The byte `OBUF[i]`, `0 <= i <= 256`; none beyond (10_state.md R31). -/
def readObuf (s : State) (i : Nat) : Option Byte :=
  if i < obufSize then some (Memory.read s.obuf i) else none

/-- The response of a command's transaction: `STATUS`, `T`, `OLEN`, `OBUF[0..OLEN-1]` (60_exceptions.md R235). -/
def commandResponse (s : State) : Response :=
  .done s.status s.t s.olen (Memory.firstBytes s.obuf s.olen.toNat)

/-- `RESET` (70_reset_and_hazards.md R261): registers and `OBUF` as 10_state.md R32 says; the configuration is not
changed; what the host has still to issue stays on the port (log 4 for the response). -/
def resetBlock (s : State) : State :=
  { State.reset with cfg := s.cfg, port := s.port }

end Sys2Proof.Machine
end

