-- ==== Sys2Proof/Machine/Bptc.lean ====
section
/-! DEFINITION. The BPTC19696 deinterleaver and Hamming-style group corrector (41_bptc.md): the four steps, the whole
decode, and the five commands. A 196-bit vector is a list of 196 Booleans, index 0 first. -/

namespace Sys2Proof.Machine

/-- `BPTC_BYTES` (00_scope.md R5). -/
def bptcBytes : Nat := 33

/-- `BPTC_BITS` (00_scope.md R5). -/
def bptcBits : Nat := 196

/-- The length of a packed 196-bit vector (41_bptc.md R133). -/
def packedBytes : Nat := 25

/-- `BPTC_MULT`, the deinterleave multiplier (00_scope.md R5). -/
def bptcMult : Nat := 181

/-- The multiplier of the inverse permutation (41_bptc.md R124). -/
def bptcInvMult : Nat := 13

/-- Step 1, bit extraction (41_bptc.md R120). -/
def extract (bytes : List Byte) : List Bool := bitsOf bytes bptcBits

/-- The 196-bit vector whose bit i is bit `(i * k) mod 196` of v. -/
def permute (k : Nat) (v : List Bool) : List Bool :=
  (List.range bptcBits).map (fun i => v.getD (i * k % bptcBits) false)

/-- Step 2, deinterleave (41_bptc.md R121). -/
def deint (v : List Bool) : List Bool := permute bptcMult v

/-- The inverse permutation (41_bptc.md R124). -/
def intlv (v : List Bool) : List Bool := permute bptcInvMult v

/-- `HAM_PARITY_POS` (00_scope.md R5). -/
def hamParityPos : List Nat := [0, 1, 3, 7]

/-- Position j contributes to parity bit p (41_bptc.md R122). -/
def covers (p j : Nat) : Bool := (j + 1) &&& (p + 1) != 0 && j != p

/-- `par` of parity position p: the exclusive-or of the positions it covers (41_bptc.md R122). -/
def hamParity (g : List Bool) (p : Nat) : Bool :=
  ((List.range 8).filter (covers p)).foldl (fun acc j => xor acc (g.getD j false)) false

/-- The weighted error-position value of a group, 0 to 15 (41_bptc.md R122). -/
def hamSyndrome (g : List Bool) : Nat :=
  (hamParityPos.map (fun p => if hamParity g p != g.getD p false then p + 1 else 0)).sum

/-- The class of a weighted error-position value (41_bptc.md R122). -/
def hamClass (syndrome : Nat) : HamClass :=
  if 1 ≤ syndrome ∧ syndrome ≤ 8 then .corrected
  else if syndrome = 0 then .clean
  else .uncorrectable

/-- The group after correction: position `s - 1` flipped when the class is CORRECTED (41_bptc.md R122). -/
def hamFix (g : List Bool) : List Bool :=
  let s := hamSyndrome g
  if hamClass s = .corrected then g.set (s - 1) (!g.getD (s - 1) false) else g

/-- The group held in a byte, position j at bit `7 - j` (41_bptc.md R125, R131). -/
def groupOfByte (b : Byte) : List Bool := bitsOf [b] 8

/-- The byte of a group, position j at bit `7 - j` (41_bptc.md R125, R131). -/
def byteOfGroup (g : List Bool) : Byte := ofBitsMsb 8 (fun j => g.getD j false)

/-- The byte part of `ham8_byte(b)` (41_bptc.md R131). -/
def ham8Byte (b : Byte) : Byte := byteOfGroup (hamFix (groupOfByte b))

/-- The value s of `ham8_byte(b)` (41_bptc.md R131). -/
def ham8Syndrome (b : Byte) : Nat := hamSyndrome (groupOfByte b)

/-- The class of `ham8_byte(b)` (41_bptc.md R131). -/
def ham8Class (b : Byte) : HamClass := hamClass (ham8Syndrome b)

/-- Group k of a 196-bit vector: bits 8k to 8k+7 (41_bptc.md R123). -/
def group (d : List Bool) (k : Nat) : List Bool := (d.drop (8 * k)).take 8

/-- The 24 whole groups of a 196-bit vector (41_bptc.md R123). -/
def groups (d : List Bool) : List (List Bool) := (List.range 24).map (group d)

/-- Step 3 on the whole vector: the 24 groups corrected, the last four bits as they are (41_bptc.md R123). -/
def hamFixAll (d : List Bool) : List Bool := (groups d).flatMap hamFix ++ d.drop 192

/-- The classes of the 24 groups (41_bptc.md R132). -/
def groupClasses (d : List Bool) : List HamClass := (groups d).map (fun g => hamClass (hamSyndrome g))

/-- What `bptc_decode` returns (41_bptc.md R132). -/
structure BptcResult where
  payload : List Byte
  hamc : BitVec 24
  hamu : BitVec 24
deriving DecidableEq, Repr

/-- The whole decode (41_bptc.md R132); step 4 packs the first 96 bits (R125). -/
def bptcDecode (bytes : List Byte) : BptcResult :=
  let d := deint (extract bytes)
  { payload := pack ((hamFixAll d).take 96)
    hamc := classMask .corrected (groupClasses d)
    hamu := classMask .uncorrectable (groupClasses d) }

/-- `BPTC.EXTRACT` (41_bptc.md R126). -/
def execBptcExtract (data : List Byte) (s : State) : Result :=
  requireLen bptcBytes data (prologue s) (emit (pack (extract data)) (prologue s))

/-- `BPTC.DEINT` (41_bptc.md R127); bits 3 to 0 of byte 24 are ignored on input and 0 on output (R133). -/
def execBptcDeint (data : List Byte) (s : State) : Result :=
  requireLen packedBytes data (prologue s) (emit (pack (deint (bitsOf data bptcBits))) (prologue s))

/-- `BPTC.INTLV` (41_bptc.md R128). -/
def execBptcIntlv (data : List Byte) (s : State) : Result :=
  requireLen packedBytes data (prologue s) (emit (pack (intlv (bitsOf data bptcBits))) (prologue s))

/-- `BPTC.HAM8` (41_bptc.md R129): the group after correction, then s; bit 0 of `HAMC` or `HAMU`. -/
def execBptcHam8 (data : List Byte) (s : State) : Result :=
  let b := ibuf data 0
  requireLen 1 data (prologue s)
    (emit [ham8Byte b, BitVec.ofNat 8 (ham8Syndrome b)]
      (setHam (classMask .corrected [ham8Class b]) (classMask .uncorrectable [ham8Class b]) (prologue s)))

/-- `BPTC.DECODE` (41_bptc.md R130). An uncorrectable group is reported in `HAMU` and is no failure. -/
def execBptcDecode (data : List Byte) (s : State) : Result :=
  let r := bptcDecode data
  requireLen bptcBytes data (prologue s) (emit r.payload (setHam r.hamc r.hamu (prologue s)))

end Sys2Proof.Machine
end

