-- ==== Sys2Proof/Machine/Crc.lean ====
section
/-! DEFINITION. The CRC-16/CCITT codec (40_crc.md): the table, the register, the trailer, and `CRC.APPEND` and
`CRC.VERIFY`. -/

namespace Sys2Proof.Machine

/-- `CRC_POLY` (00_scope.md R5). -/
def crcPoly : Crc := 0x1021

/-- `CRC_INIT` (00_scope.md R5). -/
def crcInit : Crc := 0xFFFF

/-- `CRC_XOROUT` (00_scope.md R5). -/
def crcXorOut : Crc := 0xFFFF

/-- One shift of the register, most significant bit first (40_crc.md R100). -/
def crcShift (r : Crc) : Crc :=
  if r.getLsbD 15 then (r <<< 1) ^^^ crcPoly else r <<< 1

/-- `repeat n times` of `crcShift`. -/
def crcShifts : Nat → Crc → Crc
  | 0, r => r
  | n + 1, r => crcShifts n (crcShift r)

/-- `CRC_TABLE[i]` (40_crc.md R100). -/
def crcTable (i : Byte) : Crc := crcShifts 8 (i.setWidth 16 <<< 8)

/-- `crc_step(r, b)`, table form (40_crc.md R101). -/
def crcStep (r : Crc) (b : Byte) : Crc := (r <<< 8) ^^^ crcTable (hiByte r ^^^ b)

/-- The register after the bytes of D, from a start value (40_crc.md R102). -/
def crcRun (r : Crc) (bytes : List Byte) : Crc := bytes.foldl crcStep r

/-- `crc16(D)` (40_crc.md R102). -/
def crc16 (bytes : List Byte) : Crc := crcRun crcInit bytes ^^^ crcXorOut

/-- The trailer of D, high byte first (40_crc.md R103). -/
def crcTrailer (bytes : List Byte) : List Byte := [hiByte (crc16 bytes), loByte (crc16 bytes)]

/-- `crc_append(D)` (40_crc.md R103). -/
def crcAppend (bytes : List Byte) : List Byte := bytes ++ crcTrailer bytes

/-- The bytes the trailer of B covers: all but the last two (40_crc.md R103). -/
def crcCovered (bytes : List Byte) : List Byte := bytes.take (bytes.length - 2)

/-- `crc_verify(B)` for `len(B) >= 2` (40_crc.md R103). -/
def crcVerify (bytes : List Byte) : Bool :=
  bytes.getD (bytes.length - 2) 0#8 == hiByte (crc16 (crcCovered bytes)) &&
    bytes.getD (bytes.length - 1) 0#8 == loByte (crc16 (crcCovered bytes))

/-- `CRC.APPEND` (40_crc.md R104). -/
def execCrcAppend (data : List Byte) (s : State) : Result :=
  emit (crcAppend data) (setCrcval (crc16 data) (prologue s))

/-- `CRC.VERIFY` (40_crc.md R105). A mismatch is a result, `T = 0` with `STATUS = OK`. -/
def execCrcVerify (data : List Byte) (s : State) : Result :=
  requireMinLen 2 data (prologue s)
    (complete (setTruth (crcVerify data) (setCrcval (crc16 (crcCovered data)) (prologue s))))

end Sys2Proof.Machine
end

