-- ==== Sys2Proof/Machine/CsbkPut.lean ====
section
/-! DEFINITION. The CSBK decoder and field extractor (44_csbk.md): the five steps and `CSBK.PUT`. -/

namespace Sys2Proof.Machine

/-- Step 1: the two header bytes equal the two parameters (44_csbk.md R190). -/
def wakeupOk (c : Config) (data : List Byte) : Bool :=
  ibuf data 0 == c.tagData && ibuf data 1 == c.wakeupFlags

/-- Step 2a: the bytes from index 2 on, padded with 0x00 or cut to exactly 33 (44_csbk.md R191). -/
def padOrTruncate (data : List Byte) : List Byte :=
  (List.range bptcBytes).map (fun i => if 2 + i < data.length then ibuf data (2 + i) else 0#8)

/-- Step 4: `payload[0] & 0x3F` (44_csbk.md R194). -/
def csbkOpcode (payload : List Byte) : BitVec 6 := (payload.getD 0 0#8).setWidth 6

/-- Step 5: the group of a supported opcode, with every field the opcode does not populate 0; none for any other
opcode (44_csbk.md R195, R196; 10_state.md R24). -/
def csbkFields (c : Config) (payload : List Byte) : Option Csbk :=
  let o := csbkOpcode payload
  let common : Csbk :=
    { Csbk.zero with
      v := true, csbko := o, fid := payload.getD 1 0#8
      data := BitVec.ofNat 112 (beNat (crcAppend payload)) }
  if o = c.opcBsdwnact then
    some { common with bsid := be24 payload 4, srcid := be24 payload 7 }
  else if o = c.opcUuvreq then
    some { common with
      dstid := be24 payload 4, srcid := be24 payload 7, ovcm := (payload.getD 2 0#8).getLsbD 2 }
  else none

/-- `CSBK.PUT` (44_csbk.md R196). The test of the fresh trailer is kept as the source states it (R193). -/
def execCsbkPut (data : List Byte) (s : State) : Result :=
  let r := bptcDecode (padOrTruncate data)
  let s1 := setCrcval (crc16 r.payload) (setHam r.hamc r.hamu (prologueCsbk s))
  requireMinLen 2 data (prologueCsbk s)
    (if !wakeupOk s.cfg data then raise .invalidWakeup (prologueCsbk s)
     else if !crcVerify (crcAppend r.payload) then raise .invalidCRC s1
     else
       match csbkFields s.cfg r.payload with
       | none => raise .unsupportedOpcode s1
       | some g => emit (crcAppend r.payload) (setCsbk g s1))

end Sys2Proof.Machine
end

