-- ==== Sys2Proof/Machine/DhPut.lean ====
section
/-! DEFINITION. The DataHeader decoder and field extractor (45_dataheader.md): the fields and `DH.PUT`. -/

namespace Sys2Proof.Machine

/-- `DH_BLOCK` (00_scope.md R5). -/
def dhBlock : Nat := 12

/-- The fields of a block whose CRC passed (45_dataheader.md R210, R211). -/
def dhFields (block : List Byte) : DataHeader :=
  { v := true
    gi := (block.getD 0 0#8).getLsbD 7
    a := (block.getD 0 0#8).getLsbD 6
    dstid := be24 block 2
    srcid := be24 block 5
    data := BitVec.ofNat 96 (beNat block) }

/-- `DH.PUT` (45_dataheader.md R211): the first 12 bytes, of which the last two are the trailer. -/
def execDhPut (data : List Byte) (s : State) : Result :=
  let block := ibufSlice data 0 dhBlock
  let s1 := setCrcval (crc16 (crcCovered block)) (prologueDh s)
  requireMinLen dhBlock data (prologueDh s)
    (if !crcVerify block then raise .invalidCRC s1
     else emit block (setDh (dhFields block) s1))

end Sys2Proof.Machine
end

