-- ==== Sys2Proof/Machine/Golay.lean ====
section
/-! DEFINITION. The Golay(20,8) slot-type codec (43_golay.md) over the parameters `GOLAY_PAR` and `SLOT_BITPOS` of the
configuration: the code, the decoder of radius 3, the bit map, and `GOLAY.DECODE`, `GOLAY.ENCODE`. -/

namespace Sys2Proof.Machine

/-- `SLOT_FRAME` (00_scope.md R5). -/
def slotFrame : Nat := 21

/-- `GOLAY_PAR(m)`: the exclusive-or of the rows whose bit is set in m, bit 7 first (43_golay.md R170, R171). -/
def golayPar (c : Config) (m : Byte) : BitVec 12 :=
  (List.range 8).foldl
    (fun acc k => if m.getMsbD k then acc ^^^ c.golayRows.toList.getD k 0 else acc) 0

/-- `cw(m) = (m << 12) | GOLAY_PAR(m)` (43_golay.md R170). -/
def golayCw (c : Config) (m : Byte) : Codeword := m ++ golayPar c m

/-- `golay_decode(r)`: a byte whose codeword is within 3 bits of r, and how many bits (43_golay.md R172). Under
`golay_dmin7` there is at most one; without it the least is taken (DESIGN CHOICE, log 7). -/
def golayDecode (c : Config) (r : Codeword) : Option (Byte × Nat) :=
  (List.range 256).findSome? (fun m =>
    let n := dist r (golayCw c (BitVec.ofNat 8 m))
    if n ≤ 3 then some (BitVec.ofNat 8 m, n) else none)

/-- `SLOT_BITPOS[k]` (43_golay.md R173). -/
def slotPos (c : Config) (k : Nat) : Nat := (c.slotBitPos.toList.map Fin.val).getD k 0

/-- `slot_get(F)`: bit `19 - k` is the frame bit at `SLOT_BITPOS[k]` (43_golay.md R177). -/
def slotGet (c : Config) (frame : List Byte) : Codeword :=
  ofBitsMsb 20 (fun k => (bitsOf frame 168).getD (slotPos c k) false)

/-- `slot_put(F, w)`: F with the bit at `SLOT_BITPOS[k]` replaced by `w[19 - k]` for every k (43_golay.md R177). -/
def slotPut (c : Config) (frame : List Byte) (w : Codeword) : List Byte :=
  pack ((List.range 20).foldl (fun v k => v.set (slotPos c k) (w.getMsbD k)) (bitsOf frame 168))

/-- The `ST.*` group of a decoded information byte and error count (43_golay.md R174, R175). -/
def slotTypeOf (m : Byte) (n : Nat) : SlotType :=
  { v := true, cc := m.extractLsb' 4 4, dt := m.extractLsb' 0 4, nerr := BitVec.ofNat 2 n }

/-- `GOLAY.DECODE` (43_golay.md R175). -/
def execGolayDecode (data : List Byte) (s : State) : Result :=
  requireLen slotFrame data (prologueSt s)
    (match golayDecode s.cfg (slotGet s.cfg data) with
     | none => raise .fecUncorrectable (prologueSt s)
     | some (m, n) => emit [m] (setSt (slotTypeOf m n) (prologueSt s)))

/-- `GOLAY.ENCODE` (43_golay.md R176). The `ST.*` group is not written. -/
def execGolayEncode (colorCode dataType : BitVec 4) (data : List Byte) (s : State) : Result :=
  requireLen slotFrame data (prologue s)
    (emit (slotPut s.cfg data (golayCw s.cfg (slotTypeByte colorCode dataType))) (prologue s))

end Sys2Proof.Machine
end

