-- ==== Sys2Proof/Machine/Nop.lean ====
section
/-! DEFINITION. The system command (46_system.md). -/

namespace Sys2Proof.Machine

/-- `NOP` (46_system.md R220): nothing changes, and the common prologue is not run. -/
def execNop (s : State) : Result := .next s

end Sys2Proof.Machine
end

