-- ==== Sys2Proof/Machine/ReedSolomon.lean ====
section
/-! DEFINITION. The Reed-Solomon(12,9) parity codec over GF(256) (42_rs.md): `gmult`, the parity register, and
`GF.MUL`, `RS.ENCODE`, `RS.CHECK`. -/

namespace Sys2Proof.Machine

/-- `GF_REDUCE` (00_scope.md R5). -/
def gfReduce : Byte := 0x1D

/-- The left shift with carry and reduction of one operand, multiplication by 0x02 (42_rs.md R150). -/
def gfDouble (a : Byte) : Byte :=
  if a.getLsbD 7 then (a <<< 1) ^^^ gfReduce else a <<< 1

/-- `n` rounds of the multiplication loop, with the product so far (42_rs.md R150). -/
def gmultLoop : Nat → Byte → Byte → Byte → Byte
  | 0, p, _, _ => p
  | n + 1, p, a, b =>
    gmultLoop n (if b.getLsbD 0 then p ^^^ a else p) (gfDouble a) (b >>> 1)

/-- `gmult(a, b)` (42_rs.md R150). -/
def gmult (a b : Byte) : Byte := gmultLoop 8 0#8 a b

/-- The 3-element parity register of 42_rs.md R152; `reg2` is the top slot. -/
structure RsReg where
  reg0 : Byte
  reg1 : Byte
  reg2 : Byte
deriving DecidableEq, Repr

/-- One iteration of `rs_parity`: the register's old values and one message byte (42_rs.md R152). -/
def rsStep (reg : RsReg) (b : Byte) : RsReg :=
  let dbyte := b ^^^ reg.reg2
  { reg2 := reg.reg1 ^^^ gmult 14 dbyte
    reg1 := reg.reg0 ^^^ gmult 56 dbyte
    reg0 := gmult 64 dbyte }

/-- `rs_parity(M)` (42_rs.md R152). -/
def rsParity (msg : List Byte) : RsReg := msg.foldl rsStep { reg0 := 0, reg1 := 0, reg2 := 0 }

/-- `rs_encode(M)`: the top slot first (42_rs.md R153). -/
def rsEncode (msg : List Byte) : List Byte :=
  let reg := rsParity msg
  [reg.reg2, reg.reg1, reg.reg0]

/-- `check`: the three parity bytes of the first nine against bytes 9, 10, 11 (42_rs.md R156). -/
def rsCheck (data : List Byte) : Bool :=
  [ibuf data 9, ibuf data 10, ibuf data 11] == rsEncode (ibufSlice data 0 9)

/-- `GF.MUL` (42_rs.md R154). -/
def execGfMul (data : List Byte) (s : State) : Result :=
  requireLen 2 data (prologue s) (emit [gmult (ibuf data 0) (ibuf data 1)] (prologue s))

/-- `RS.ENCODE` (42_rs.md R155). -/
def execRsEncode (data : List Byte) (s : State) : Result :=
  requireLen 9 data (prologue s) (emit (rsEncode data) (prologue s))

/-- `RS.CHECK` (42_rs.md R156). A false check is a result, `T = 0` with `STATUS = OK`. -/
def execRsCheck (data : List Byte) (s : State) : Result :=
  requireLen 12 data (prologue s) (complete (setTruth (rsCheck data) (prologue s)))

end Sys2Proof.Machine
end

