-- ==== Sys2Proof/Machine/Dispatch.lean ====
section
/-! DEFINITION. One arm per command (30_encoding.md R73). -/

namespace Sys2Proof.Machine

def exec (i : Instr) (s : State) : Host.Outcome State Fault Refusal :=
  match i with
  | .nop => Sys2Proof.Machine.execNop s
  | .crcAppend data => Sys2Proof.Machine.execCrcAppend data s
  | .crcVerify data => Sys2Proof.Machine.execCrcVerify data s
  | .bptcExtract data => Sys2Proof.Machine.execBptcExtract data s
  | .bptcDeint data => Sys2Proof.Machine.execBptcDeint data s
  | .bptcIntlv data => Sys2Proof.Machine.execBptcIntlv data s
  | .bptcHam8 data => Sys2Proof.Machine.execBptcHam8 data s
  | .bptcDecode data => Sys2Proof.Machine.execBptcDecode data s
  | .gfMul data => Sys2Proof.Machine.execGfMul data s
  | .rsEncode data => Sys2Proof.Machine.execRsEncode data s
  | .rsCheck data => Sys2Proof.Machine.execRsCheck data s
  | .golayDecode data => Sys2Proof.Machine.execGolayDecode data s
  | .golayEncode colorCode dataType data => Sys2Proof.Machine.execGolayEncode colorCode dataType data s
  | .csbkPut data => Sys2Proof.Machine.execCsbkPut data s
  | .dhPut data => Sys2Proof.Machine.execDhPut data s

end Sys2Proof.Machine
end

