-- ==== Sys2Proof/Machine/Port.lean ====
section
/-! DEFINITION. The command port (70_reset_and_hazards.md R263, R266): one event of the host served as one atomic step
(20_memory.md R57). -/

namespace Sys2Proof.Machine

/-- The end of a command's transaction: what is returned to the host (60_exceptions.md R235). -/
def respond (r : Result) : Result :=
  match r with
  | .next s => .next (setResponse (some (commandResponse s)) s)
  | .fault f => .fault f
  | .refused f => .refused f

/-- A command on the port (30_encoding.md R76): its bytes decoded and run, refused as R74 says, or, if they are no
command at all, rejected by name without a step (R71). -/
def issueCommand (bytes : List Byte) (s : State) : Result :=
  match Sys2Proof.decode bytes with
  | .ok i => respond (exec i s)
  | .error .unknownOpc => respond (refuseCommand s)
  | .error .reservedArg => respond (refuseCommand s)
  | .error .nopWithData => respond (refuseCommand s)
  | .error .truncatedCommand => .refused .truncatedCommand
  | .error .trailingBytes => .refused .trailingBytes

/-- One event of the host. -/
def serve (e : HostEvent) (s : State) : Result :=
  match e with
  | .command bytes => issueCommand bytes s
  | .readReg n =>
    match readReg s n with
    | some v => .next (setResponse (some (.register v)) s)
    | none => .refused (.undefinedRegister n)
  | .readObuf i =>
    match readObuf s i with
    | some b => .next (setResponse (some (.obufByte b)) s)
    | none => .refused (.undefinedObufIndex i)
  | .reset => .next (resetBlock s)

/-- The next event of the port, if there is one; else the block is ready and nothing changes (log 3). -/
def servePort (s : State) : Result :=
  match s.port with
  | [] => .next s
  | e :: rest => serve e (setPort rest s)

/-- The host offers a command ahead of everything it has still to issue. -/
def offerCommand (bytes : List Byte) (s : State) : State := setPort (.command bytes :: s.port) s

end Sys2Proof.Machine
end

