-- ==== Sys2Proof/Machine/Step.lean ====
section
/-! DEFINITION. One step of the machine, and a command placed where the step takes its next one. -/

namespace Sys2Proof.Machine

/-- One event of the host, served whole (20_memory.md R57, 70_reset_and_hazards.md R263). -/
def step : State → Host.Outcome State Fault Refusal := servePort

/-- The command of a table word, first on the port: the block has no program memory, commands come from the host
(10_state.md R22; log 3). -/
def State.withFetchWord (s : State) (nbits w : Nat) : State :=
  offerCommand (Sys2Proof.commandBytesOfTableWord nbits w) s

end Sys2Proof.Machine
end

