-- ==== Sys2Proof/Machine/Assembly.lean ====
section
/-! DEFINITION. The one-line notation of a command (30_encoding.md R77): the mnemonic, for format I the immediate, then
the data bytes as two-digit upper-case hexadecimal numbers. There are no pseudo-instructions (R78). -/

namespace Sys2Proof.Machine

/-- The upper-case hexadecimal digit of a nibble. -/
def hexDigit (n : BitVec 4) : String :=
  ["0", "1", "2", "3", "4", "5", "6", "7", "8", "9", "A", "B", "C", "D", "E", "F"].getD n.toNat ""

/-- A byte as two hexadecimal digits (R77). -/
def hexByte (b : Byte) : String := hexDigit (b.extractLsb' 4 4) ++ hexDigit (b.extractLsb' 0 4)

/-- The immediate of a format I command, `#0xNN` (R77). -/
def assemblyImmediate (i : Instr) (f : Format) : List String :=
  match f with
  | .n => []
  | .i => ["#0x" ++ hexByte i.arg]

/-- A command in the notation of R77. `LEN` is not written. -/
def assembly (i : Instr) : String :=
  match rowOf i.opc with
  | none => ""
  | some r => " ".intercalate (r.mnemonic :: assemblyImmediate i r.format ++ i.data.map hexByte)

end Sys2Proof.Machine
end

