-- ==== Sys2Proof/Machine/Instances.lean ====
section
/-! DEFINITION. Several blocks (20_memory.md R61): each has its own state, and they share nothing but parameters,
which are constants. -/

namespace Sys2Proof.Machine

/-- Block k of a system takes one step; the others do not move. A k that names no block does nothing
(log 11). -/
def stepInstance (k : Nat) (blocks : List State) : Host.Outcome (List State) Fault Refusal :=
  match blocks[k]? with
  | none => .next blocks
  | some s =>
    match step s with
    | .next t => .next (blocks.set k t)
    | .fault f => .fault f
    | .refused r => .refused r

end Sys2Proof.Machine
end

