-- ==== Sys2Proof/Safety.lean ====
section
/-! DEFINITION. The terms claims are stated in: the constraints on a configuration (00_scope.md R6), the invariants of
a safe run, and what a command leaves behind. -/

namespace Sys2Proof

/-- `golay_dmin7` (43_golay.md R170): two different codewords differ in at least 7 positions. -/
def Config.GolayDmin7 (c : Config) : Prop :=
  ∀ a b : Byte, a ≠ b → 7 ≤ Machine.dist (Machine.golayCw c a) (Machine.golayCw c b)

/-- `SLOT_BITPOS` is pairwise distinct (00_scope.md R6); below 168 it is by its type. -/
def Config.SlotDistinct (c : Config) : Prop :=
  ∀ j k, j < 20 → k < 20 → Machine.slotPos c j = Machine.slotPos c k → j = k

/-- A configuration within the constraints of 00_scope.md R6; linearity of `GOLAY_PAR` is in its form. -/
structure Config.WF (c : Config) : Prop where
  opcodes_differ : c.opcBsdwnact ≠ c.opcUuvreq
  golay_dmin7 : c.GolayDmin7
  slot_distinct : c.SlotDistinct

end Sys2Proof

namespace Sys2Proof.Machine

/-- Bit i of a byte sequence, most significant bit of byte 0 first (00_scope.md R9). -/
def bitAt (bytes : List Byte) (i : Nat) : Bool := (bytes.getD (i / 8) 0#8).getMsbD (i % 8)

/-- Group k of a BPTC block before correction, as a byte: deinterleaved bits 8k to 8k+7 (41_bptc.md R121, R123). -/
def rawGroup (block : List Byte) (k : Nat) : Byte :=
  ofBitsMsb 8 (fun j => bitAt block ((8 * k + j) * 181 % 196))

/-- The bytes of a natural, big-endian, n of them: the inverse of reading a byte-array register. -/
def bytesOfReg {w : Nat} (n : Nat) (v : BitVec w) : List Byte :=
  (List.range n).map (fun k => v.extractLsb' (8 * (n - 1 - k)) 8)

/-- The fifteen operation codes of 30_encoding.md R73. -/
def definedOpcs : List Byte :=
  [0x00, 0x01, 0x02, 0x10, 0x11, 0x12, 0x13, 0x14, 0x20, 0x21, 0x22, 0x30, 0x31, 0x40, 0x41]

/-- A format N operation code with these data: `ARG` 0x00 gives the command i, any other `ARG` is reserved
(30_encoding.md R72, R74). -/
def EncodedN (opc : Byte) (data : List Byte) (i : Instr) : Prop :=
  ∀ arg : Byte, decode (opc :: arg :: BitVec.ofNat 8 data.length :: data) =
    if arg = 0x00 then .ok i else .error .reservedArg

/-- What a command leaves in the common registers and `OBUF`, with the interface and the parameters as they were:
`out` stands in `OBUF[0..]`, its length in `OLEN`, and every byte beyond it is 0x00 (10_state.md R27). -/
structure Leaves (s t : State) (status : Byte) (truth : Bool) (hamc hamu : BitVec 24) (crcval : Crc)
    (out : List Byte) : Prop where
  status_eq : t.status = status
  t_eq : t.t = truth
  olen_eq : t.olen.toNat = out.length
  hamc_eq : t.hamc = hamc
  hamu_eq : t.hamu = hamu
  crcval_eq : t.crcval = crcval
  obuf_eq : ∀ a, Memory.read t.obuf a = out.getD a 0#8
  cfg_eq : t.cfg = s.cfg
  port_eq : t.port = s.port
  response_eq : t.response = s.response

/-- Every unit group is as before (10_state.md R28). -/
def KeepsGroups (s t : State) : Prop := t.csbk = s.csbk ∧ t.dh = s.dh ∧ t.st = s.st

/-- What holds of the common registers and `OBUF` in every state of a run (10_state.md R21, R27, R29; 41_bptc.md R130;
60_exceptions.md R230, R232). -/
structure CommonInv (s : State) : Prop where
  obuf_wf : Memory.wf s.obuf
  olen_le : s.olen.toNat ≤ 257
  beyond_olen : ∀ a, s.olen.toNat ≤ a → Memory.read s.obuf a = 0#8
  status_le : s.status.toNat ≤ 7
  failure_empty : s.status ≠ 0x00 → s.t = false ∧ s.olen = 0
  truth_no_output : s.t = true → s.olen = 0
  ham_disjoint : s.hamc &&& s.hamu = 0

/-- What holds of the `CSBK.*` group (10_state.md R24; 44_csbk.md R193 to R196): all zero while `V` is 0; else the
fields are those of the payload held in `DATA`, the opcode says which, each payload byte is an output of the
group correction (41_bptc.md R131), and the last two bytes are its CRC. -/
structure CsbkInv (s : State) : Prop where
  gi_zero : s.csbk.gi = false
  cbf_zero : s.csbk.cbf = false
  invalid_zero : s.csbk.v = false → s.csbk = Csbk.zero
  bsdwnact : s.csbk.v = true → s.csbk.csbko = s.cfg.opcBsdwnact →
    s.csbk.dstid = 0 ∧ s.csbk.ovcm = false ∧ s.csbk.bsid = s.csbk.data.extractLsb' 56 24
  uuvreq : s.csbk.v = true → s.csbk.csbko = s.cfg.opcUuvreq → s.csbk.csbko ≠ s.cfg.opcBsdwnact →
    s.csbk.bsid = 0 ∧ s.csbk.dstid = s.csbk.data.extractLsb' 56 24 ∧ s.csbk.ovcm = s.csbk.data.getLsbD 90
  supported : s.csbk.v = true → s.csbk.csbko = s.cfg.opcBsdwnact ∨ s.csbk.csbko = s.cfg.opcUuvreq
  fields : s.csbk.v = true → s.csbk.csbko = s.csbk.data.extractLsb' 104 6 ∧
    s.csbk.fid = s.csbk.data.extractLsb' 96 8 ∧ s.csbk.srcid = s.csbk.data.extractLsb' 32 24
  trailer : s.csbk.v = true →
    s.csbk.data.extractLsb' 0 16 = crc16 ((bytesOfReg 14 s.csbk.data).take 12)
  corrected : s.csbk.v = true → ∀ k < 12, ham8Byte ((bytesOfReg 14 s.csbk.data).getD k 0) =
    (bytesOfReg 14 s.csbk.data).getD k 0

/-- What holds of the `DH.*` group (10_state.md R25; 45_dataheader.md R210): all zero while `V` is 0; else the fields
are those of the 12 bytes held in `DATA`, whose trailer matches. -/
structure DhInv (s : State) : Prop where
  invalid_zero : s.dh.v = false → s.dh = DataHeader.zero
  fields : s.dh.v = true → s.dh.gi = s.dh.data.getLsbD 95 ∧ s.dh.a = s.dh.data.getLsbD 94 ∧
    s.dh.dstid = s.dh.data.extractLsb' 56 24 ∧ s.dh.srcid = s.dh.data.extractLsb' 32 24
  trailer : s.dh.v = true →
    s.dh.data.extractLsb' 0 16 = crc16 ((bytesOfReg 12 s.dh.data).take 10)

/-- What holds of the `ST.*` group (10_state.md R26; 43_golay.md R175): all zero while `V` is 0. -/
def StInv (s : State) : Prop := s.st.v = false → s.st = SlotType.zero

/-- A safe run: every state of it meets the invariants. Every event but an ill-framed byte string or a read of what
does not exist leads from one such state to another. -/
structure Safe (s : State) : Prop where
  common : CommonInv s
  csbk : CsbkInv s
  dh : DhInv s
  st : StInv s

end Sys2Proof.Machine
end

