-- ==== Sys2Proof/Certificates/Slice0/Obligations.lean ====
section
/-! DEFINITION. The statements for the provers: what the rules of spec/ say the block does, over every state and every
configuration. `Leaves` says what a command leaves in the common registers and in every byte of `OBUF`, so each
result statement is the command's completion and its frame at once. -/

open Sys2Proof Sys2Proof.Machine

/-! ### Encoding -/

/-- 30_encoding.md R70 to R73: every well-formed command is what its bytes decode to. -/
def Obligations.DecodeEncodeRoundTrip : Prop :=
  ∀ i : Instr, i.wf → decode (encode i) = .ok i

/-- 30_encoding.md R70 to R74: bytes that decode to a command are exactly its encoding, and it is well-formed. -/
def Obligations.EncodeDecodeRoundTrip : Prop :=
  ∀ (bytes : List Byte) (i : Instr), decode bytes = .ok i → encode i = bytes ∧ i.wf

/-- R71: the length of a command is `3 + LEN` whatever `OPC` and `ARG`; other byte sequences are refused by name and
the block takes no step; the longest command is 258 bytes. -/
def Obligations.IllFramedBytesRefused : Prop :=
  (∀ bytes : List Byte,
    (decode bytes = .error .truncatedCommand ↔
      bytes.length < 3 ∨ bytes.length < 3 + (bytes.getD 2 0).toNat) ∧
    (decode bytes = .error .trailingBytes ↔
      3 ≤ bytes.length ∧ 3 + (bytes.getD 2 0).toNat < bytes.length)) ∧
  (∀ (bytes : List Byte) (rest : List HostEvent) (s : State), s.port = .command bytes :: rest →
    (decode bytes = .error .truncatedCommand → step s = .refused .truncatedCommand) ∧
    (decode bytes = .error .trailingBytes → step s = .refused .trailingBytes)) ∧
  (∀ (bytes : List Byte) (i : Instr), decode bytes = .ok i → bytes.length ≤ 258)

/-- R74 and R242: a well-framed command is refused in exactly the three cases, whatever its data; a refused command
leaves the state of the prologue with `STATUS = 0x07`. Its transaction returns just that (60_exceptions.md R235; that
the response is a field of State is the model's choice, log 4). -/
def Obligations.RefusedCommandsExactly : Prop :=
  ∀ (opc arg : Byte) (data : List Byte) (rest : List HostEvent) (s : State), data.length ≤ 255 →
    s.port = .command (opc :: arg :: BitVec.ofNat 8 data.length :: data) :: rest →
    (opc ∉ definedOpcs ∨ (opc ≠ 0x31 ∧ arg ≠ 0x00) ∨ (opc = 0x00 ∧ data.length ≠ 0) →
      ∃ t, step s = .next { t with response := some (.done 0x07 false 0 []) } ∧ KeepsGroups s t ∧
        Leaves { s with port := rest } t 0x07 false 0 0 0 []) ∧
    (opc ∈ definedOpcs → (opc = 0x31 ∨ arg = 0x00) → (opc = 0x00 → data.length = 0) →
      ∃ i, decode (opc :: arg :: BitVec.ofNat 8 data.length :: data) = .ok i ∧ i.data = data)

/-- 30_encoding.md R73, R77, and 95_test_vectors.md section 3: a few commands' bytes as the spec writes them. -/
def Obligations.SampleWordsDecode : Prop :=
  decode [0x00, 0x00, 0x00] = .ok .nop ∧
  decode [0x01, 0x00, 0x03, 0x31, 0x32, 0x33] = .ok (.crcAppend [0x31, 0x32, 0x33]) ∧
  decode [0x13, 0x00, 0x01, 0x40] = .ok (.bptcHam8 [0x40]) ∧
  decode [0x20, 0x00, 0x02, 0x53, 0xCA] = .ok (.gfMul [0x53, 0xCA]) ∧
  decode ([0x31, 0x13, 0x15] ++ List.replicate 21 0x00) = .ok (.golayEncode 1 3 (List.replicate 21 0x00)) ∧
  decode [0x40, 0x00, 0x02, 0x00, 0x03] = .ok (.csbkPut [0x00, 0x03]) ∧
  decode [0x41, 0x01, 0x00] = .error .reservedArg

/-! ### Steps -/

/-- 20_memory.md R57, 60_exceptions.md R235: a command first on the port is taken off it and run whole, and its
transaction returns `STATUS`, `T`, `OLEN` and `OBUF[0..OLEN-1]` as it left them. -/
def Obligations.StepRunsDecodedCommand : Prop :=
  ∀ (bytes : List Byte) (i : Instr) (rest : List HostEvent) (s : State),
    s.port = .command bytes :: rest → decode bytes = .ok i →
    ∃ t, exec i { s with port := rest } = .next t ∧
      step s = .next { t with
        response := some (.done t.status t.t t.olen ((List.range t.olen.toNat).map (Memory.read t.obuf))) }

/-- R265: every well-framed command ends, on every data and in every state, with one of the eight statuses. -/
def Obligations.EveryCommandTerminates : Prop :=
  ∀ (opc arg : Byte) (data : List Byte) (rest : List HostEvent) (s : State), data.length ≤ 255 →
    s.port = .command (opc :: arg :: BitVec.ofNat 8 data.length :: data) :: rest →
    ∃ t, step s = .next t ∧ t.port = rest ∧ t.cfg = s.cfg ∧
      (opc ≠ 0x00 ∨ arg ≠ 0x00 ∨ data.length ≠ 0 → t.status.toNat ≤ 7)

/-- 10_state.md R20: what a command other than `NOP` leaves in the common registers, `OBUF` and the unit group it
writes does not depend on the registers, `OBUF` or the interface before it, only on its bytes and the parameters. -/
def Obligations.ResultIndependentOfOldState : Prop :=
  ∀ (i : Instr) (s₁ s₂ t₁ t₂ : State), i ≠ .nop → s₁.cfg = s₂.cfg →
    exec i s₁ = .next t₁ → exec i s₂ = .next t₂ →
    t₁.status = t₂.status ∧ t₁.t = t₂.t ∧ t₁.olen = t₂.olen ∧ t₁.hamc = t₂.hamc ∧ t₁.hamu = t₂.hamu ∧
    t₁.crcval = t₂.crcval ∧ t₁.obuf = t₂.obuf ∧
    (i.opc = 0x40 → t₁.csbk = t₂.csbk) ∧ (i.opc = 0x41 → t₁.dh = t₂.dh) ∧ (i.opc = 0x30 → t₁.st = t₂.st)

/-- 70_reset_and_hazards.md R263, R266: a step takes exactly the first event of the port, in issue order; with nothing
offered it changes nothing (that last clause is the model's own choice: log 3). -/
def Obligations.StepConsumesOneEventInOrder : Prop :=
  (∀ (e : HostEvent) (rest : List HostEvent) (s t : State), s.port = e :: rest → step s = .next t → t.port = rest) ∧
  (∀ s : State, s.port = [] → step s = .next s)

/-- R260, R261: `RESET` is an event between commands; after it every result register and every byte of `OBUF` is 0,
the configuration is unchanged, and the block is ready for what the host offers next. That the events behind it stay
on the port is the model's choice (log 3). -/
def Obligations.ResetEventZeroesKeepsConfig : Prop :=
  ∀ (rest : List HostEvent) (s : State), s.port = .reset :: rest →
    ∃ t, step s = .next t ∧ t.port = rest ∧ t.cfg = s.cfg ∧
      (∀ n v, readReg t n = some v → v = 0) ∧ (∀ a, Memory.read t.obuf a = 0)

/-- R32: after reset each of the 26 result registers is 0 and every byte of `OBUF` is 0x00. -/
def Obligations.ResetValuesZero : Prop :=
  (∀ n ∈ [0x00, 0x01, 0x02, 0x03, 0x04, 0x05, 0x10, 0x11, 0x12, 0x13, 0x14, 0x15, 0x16, 0x17, 0x18, 0x19,
      0x20, 0x21, 0x22, 0x23, 0x24, 0x25, 0x30, 0x31, 0x32, 0x33],
    readReg State.reset n = some 0) ∧
  (∀ i, i ≤ 256 → readObuf State.reset i = some 0)

/-- R31 (and the register numbers of R21): a host read of a register of the table or of `OBUF[i]`, `i <= 256`, returns
what the last command left and changes nothing, so that reading again returns the same; any other read is
refused by name (92_eei_decisions.md D4). The 112 bits of the response are the model's choice (log 10). -/
def Obligations.HostReadsHaveNoSideEffect : Prop :=
  (∀ (n : Nat) (rest : List HostEvent) (s : State), s.port = .readReg n :: rest →
    (∀ v, (n, v) ∈
      [(0x00, s.status.setWidth 112), (0x01, (BitVec.ofBool s.t).setWidth 112), (0x02, s.olen.setWidth 112),
       (0x03, s.hamc.setWidth 112), (0x04, s.hamu.setWidth 112), (0x05, s.crcval.setWidth 112),
       (0x10, (BitVec.ofBool s.csbk.v).setWidth 112), (0x11, s.csbk.csbko.setWidth 112),
       (0x12, s.csbk.fid.setWidth 112), (0x13, (BitVec.ofBool s.csbk.gi).setWidth 112),
       (0x14, (BitVec.ofBool s.csbk.cbf).setWidth 112), (0x15, (BitVec.ofBool s.csbk.ovcm).setWidth 112),
       (0x16, s.csbk.bsid.setWidth 112), (0x17, s.csbk.srcid.setWidth 112), (0x18, s.csbk.dstid.setWidth 112),
       (0x19, s.csbk.data), (0x20, (BitVec.ofBool s.dh.v).setWidth 112),
       (0x21, (BitVec.ofBool s.dh.gi).setWidth 112), (0x22, (BitVec.ofBool s.dh.a).setWidth 112),
       (0x23, s.dh.dstid.setWidth 112), (0x24, s.dh.srcid.setWidth 112), (0x25, s.dh.data.setWidth 112),
       (0x30, (BitVec.ofBool s.st.v).setWidth 112), (0x31, s.st.cc.setWidth 112), (0x32, s.st.dt.setWidth 112),
       (0x33, s.st.nerr.setWidth 112)] →
      step s = .next { s with port := rest, response := some (.register v) }) ∧
    (n ∉ [0x00, 0x01, 0x02, 0x03, 0x04, 0x05, 0x10, 0x11, 0x12, 0x13, 0x14, 0x15, 0x16, 0x17, 0x18, 0x19,
        0x20, 0x21, 0x22, 0x23, 0x24, 0x25, 0x30, 0x31, 0x32, 0x33] →
      step s = .refused (.undefinedRegister n))) ∧
  (∀ (i : Nat) (rest : List HostEvent) (s : State), s.port = .readObuf i :: rest →
    (i ≤ 256 → step s = .next { s with port := rest, response := some (.obufByte (Memory.read s.obuf i)) }) ∧
    (256 < i → step s = .refused (.undefinedObufIndex i))) ∧
  (∀ (e : HostEvent) (rest : List HostEvent) (s t u : State), (∃ n, e = .readReg n ∨ e = .readObuf n) →
    s.port = e :: e :: rest → step s = .next t → step t = .next u → u.response = t.response)

/-! ### Invariants of every step -/

/-- 10_state.md R32: the reset state meets every invariant of a safe run. -/
def Obligations.ResetStateIsSafe : Prop := Safe State.reset

/-- 10_state.md R21, R27, R29, 60_exceptions.md R230, R232: every step keeps the invariant of the common registers and
`OBUF`: the canonical form, zero bytes from `OLEN` on, a legal status, an empty result after a failure. -/
def Obligations.StepKeepsCommonInv : Prop :=
  ∀ s t : State, CommonInv s → step s = .next t → CommonInv t

/-- R24: in every state `CSBK.GI` and `CSBK.CBF` are 0, the group is all zero unless it holds a decoded result, the
fields not relevant to the opcode are 0, and the others are those of the payload in `CSBK.DATA` (44_csbk.md R194 to
R196). Its trailer matches and the group correction leaves each of its payload bytes unchanged (R193 and 41_bptc.md
R131, the spec's own derivations). -/
def Obligations.StepKeepsCsbkInv : Prop :=
  CsbkInv State.reset ∧ (∀ s t : State, CsbkInv s → step s = .next t → CsbkInv t) ∧
  (∀ (data : List Byte) (s t : State), exec (.csbkPut data) s = .next t →
    (t.status ≠ 0x00 → t.csbk = Csbk.zero) ∧ (t.status = 0x00 → t.csbk.v = true))

/-- R25: in every state the `DH.*` group is all zero unless it holds a decoded result, and then it holds the fields of
the 12 copied bytes, whose trailer matches. -/
def Obligations.StepKeepsDhInv : Prop :=
  DhInv State.reset ∧ (∀ s t : State, DhInv s → step s = .next t → DhInv t) ∧
  (∀ (data : List Byte) (s t : State), exec (.dhPut data) s = .next t →
    (t.status ≠ 0x00 → t.dh = DataHeader.zero) ∧ (t.status = 0x00 → t.dh.v = true))

/-- R26: in every state the `ST.*` group is all zero unless it holds a decoded slot type; `GOLAY.ENCODE` does not
write it. -/
def Obligations.StepKeepsStInv : Prop :=
  StInv State.reset ∧ (∀ s t : State, StInv s → step s = .next t → StInv t) ∧
  (∀ (cc dt : BitVec 4) (data : List Byte) (s t : State),
    exec (.golayEncode cc dt data) s = .next t → t.st = s.st) ∧
  (∀ (data : List Byte) (s t : State), exec (.golayDecode data) s = .next t →
    (t.status ≠ 0x00 → t.st = SlotType.zero) ∧
    (t.status = 0x00 → t.st.v = true ∧ t.st.nerr.toNat =
      dist (slotGet s.cfg data) (golayCw s.cfg (t.st.cc ++ t.st.dt))))

/-- 00_scope.md R6, 70_reset_and_hazards.md R261: no step changes a parameter. -/
def Obligations.StepKeepsConfig : Prop :=
  ∀ s t : State, step s = .next t → t.cfg = s.cfg

/-- R28: a unit group is written only by its own command; a refused command and `NOP` leave all three. -/
def Obligations.UnitGroupsPersist : Prop :=
  (∀ (i : Instr) (s t : State), exec i s = .next t →
    (i.opc ≠ 0x40 → t.csbk = s.csbk) ∧ (i.opc ≠ 0x41 → t.dh = s.dh) ∧ (i.opc ≠ 0x30 → t.st = s.st)) ∧
  (∀ s t : State, refuseCommand s = .next t → KeepsGroups s t) ∧
  (∀ s t : State, exec .nop s = .next t → KeepsGroups s t)

/-! ### Failures -/

/-- R232: a command that fails leaves `T`, `OLEN`, `OBUF` and its own unit group 0, the other groups as they were, and
in `HAMC`, `HAMU` and `CRCVAL` what it assigned before: the masks and the CRC of the payload when `CSBK.PUT`
fails with `UnsupportedOpcode`, the recomputed CRC when `DH.PUT` fails with `InvalidCRC`, else 0. -/
def Obligations.FailureEffect : Prop :=
  ∀ (i : Instr) (s t : State), i ≠ .nop → exec i s = .next t → t.status ≠ 0x00 →
    t.t = false ∧ t.olen = 0 ∧ (∀ a, Memory.read t.obuf a = 0) ∧
    t.csbk = (if i.opc = 0x40 then Csbk.zero else s.csbk) ∧
    t.dh = (if i.opc = 0x41 then DataHeader.zero else s.dh) ∧
    t.st = (if i.opc = 0x30 then SlotType.zero else s.st) ∧
    (t.hamc, t.hamu, t.crcval) =
      (if t.status = 0x06 then
        ((bptcDecode (padOrTruncate i.data)).hamc, (bptcDecode (padOrTruncate i.data)).hamu,
          crc16 (bptcDecode (padOrTruncate i.data)).payload)
       else if t.status = 0x03 then (0, 0, crc16 (i.data.take 10))
       else (0, 0, 0))

/-- R233: one command reports one status, the first that applies: the refusals before the length contract (the
example of the rule), the length contract before the command's own checks, those in their order. -/
def Obligations.OneStatusPerCommand : Prop :=
  (∀ (i : Instr) (s t : State), exec i s = .next t → i ≠ .nop →
    ((i.opc = 0x01 ∧ t.status = 0x00) ∨
     (i.opc = 0x02 ∧ t.status = if i.data.length < 2 then 0x01 else 0x00) ∨
     (i.opc ∈ [0x10, 0x14] ∧ t.status = if i.data.length ≠ 33 then 0x02 else 0x00) ∨
     (i.opc ∈ [0x11, 0x12] ∧ t.status = if i.data.length ≠ 25 then 0x02 else 0x00) ∨
     (i.opc = 0x13 ∧ t.status = if i.data.length ≠ 1 then 0x02 else 0x00) ∨
     (i.opc = 0x20 ∧ t.status = if i.data.length ≠ 2 then 0x02 else 0x00) ∨
     (i.opc = 0x21 ∧ t.status = if i.data.length ≠ 9 then 0x02 else 0x00) ∨
     (i.opc = 0x22 ∧ t.status = if i.data.length ≠ 12 then 0x02 else 0x00) ∨
     (i.opc = 0x31 ∧ t.status = if i.data.length ≠ 21 then 0x02 else 0x00) ∨
     (i.opc = 0x30 ∧ t.status = if i.data.length ≠ 21 then 0x02
        else if ∃ m, dist (slotGet s.cfg i.data) (golayCw s.cfg m) ≤ 3 then 0x00 else 0x04) ∨
     (i.opc = 0x40 ∧ t.status = if i.data.length < 2 then 0x01
        else if i.data.getD 0 0 ≠ s.cfg.tagData ∨ i.data.getD 1 0 ≠ s.cfg.wakeupFlags then 0x05
        else if csbkOpcode (bptcDecode (padOrTruncate i.data)).payload ∈ [s.cfg.opcBsdwnact, s.cfg.opcUuvreq]
          then 0x00 else 0x06) ∨
     (i.opc = 0x41 ∧ t.status = if i.data.length < 12 then 0x01
        else if i.data.getD 10 0 ++ i.data.getD 11 0 ≠ crc16 (i.data.take 10) then 0x03 else 0x00))) ∧
  (∀ (opc arg : Byte) (data : List Byte) (rest : List HostEvent) (s : State), data.length ≤ 255 →
    s.port = .command (opc :: arg :: BitVec.ofNat 8 data.length :: data) :: rest →
    opc ∉ definedOpcs ∨ (opc ≠ 0x31 ∧ arg ≠ 0x00) ∨ (opc = 0x00 ∧ data.length ≠ 0) →
    ∃ t, step s = .next t ∧ t.status = 0x07)

/-- R75: a broken exact-length contract is `InvalidLength`, a broken minimum `DataTooShort`, before any byte is read;
`LEN` above a minimum is legal. -/
def Obligations.LengthContracts : Prop :=
  (∀ (i : Instr) (n : Nat) (s : State),
    (i.opc, n) ∈ ([(0x10, 33), (0x11, 25), (0x12, 25), (0x13, 1), (0x14, 33), (0x20, 2), (0x21, 9), (0x22, 12),
      (0x30, 21), (0x31, 21)] : List (Byte × Nat)) → i.data.length ≠ n →
    ∃ t, exec i s = .next t ∧ Leaves s t 0x02 false 0 0 0 []) ∧
  (∀ (i : Instr) (n : Nat) (s : State),
    (i.opc, n) ∈ ([(0x02, 2), (0x40, 2), (0x41, 12)] : List (Byte × Nat)) → i.data.length < n →
    ∃ t, exec i s = .next t ∧ Leaves s t 0x01 false 0 0 0 []) ∧
  (∀ (data : List Byte) (s : State), exec (.csbkPut data) s = exec (.csbkPut (data.take 35)) s) ∧
  (∀ (data : List Byte) (s : State), exec (.dhPut data) s = exec (.dhPut (data.take 12)) s) ∧
  (∀ (data : List Byte) (s t : State), 2 ≤ data.length → exec (.crcVerify data) s = .next t →
    t.status = 0x00 ∧ t.crcval = crc16 (data.take (data.length - 2)))

/-- R33: `CRCVAL` after each command: the four that compute a CRC leave it there, also when the comparison then fails;
every other command, and a failure before the CRC was computed, leaves 0. -/
def Obligations.CrcvalSetByFourCommands : Prop :=
  ∀ (i : Instr) (s t : State), i ≠ .nop → exec i s = .next t →
    t.crcval =
      (if i.opc = 0x01 then crc16 i.data
       else if i.opc = 0x02 ∧ 2 ≤ i.data.length then crc16 (i.data.take (i.data.length - 2))
       else if i.opc = 0x40 ∧ 2 ≤ i.data.length ∧ i.data.getD 0 0 = s.cfg.tagData ∧
          i.data.getD 1 0 = s.cfg.wakeupFlags then crc16 (bptcDecode (padOrTruncate i.data)).payload
       else if i.opc = 0x41 ∧ 12 ≤ i.data.length then crc16 (i.data.take 10)
       else 0)

/-- R265 and the model's own bound (log 6): every command runs to a next state from every state, and none is refused;
the one thing that stops is a `CRC.APPEND` term longer than `LEN` can say, which no bytes decode to. -/
def Obligations.OnlyOverlongAppendStops : Prop :=
  (∀ (i : Instr) (s : State), i.wf → ∃ t, exec i s = .next t) ∧
  (∀ (i : Instr) (s : State), (∀ data, i = .crcAppend data → data.length ≤ 255) → ∃ t, exec i s = .next t) ∧
  (∀ (data : List Byte) (s : State), 255 < data.length → exec (.crcAppend data) s = .fault .obufOverrun)

/-! ### System -/

/-- R220: `NOP` is the three bytes 0; it changes nothing, the prologue is not run; any other `ARG` or `LEN` makes it a
refused command. -/
def Obligations.NopDoesNothing : Prop :=
  encode .nop = [0x00, 0x00, 0x00] ∧ decode [0x00, 0x00, 0x00] = .ok .nop ∧
  (∀ s : State, exec .nop s = .next s) ∧
  (∀ (arg : Byte) (data : List Byte) (rest : List HostEvent) (s : State), data.length ≤ 255 →
    s.port = .command (0x00 :: arg :: BitVec.ofNat 8 data.length :: data) :: rest → arg ≠ 0x00 ∨ data ≠ [] →
    ∃ t, step s = .next t ∧ t.status = 0x07 ∧ t.olen = 0 ∧ ∀ a, Memory.read t.obuf a = 0)

/-! ### CRC -/

/-- R104: `CRC.APPEND` leaves the data and its trailer in `OBUF`, the CRC in `CRCVAL`; no length fails; the corner
case of no data. -/
def Obligations.CrcAppendResult : Prop :=
  (∀ (data : List Byte) (s : State), data.length ≤ 255 →
    EncodedN 0x01 data (.crcAppend data) ∧
    ∃ t, exec (.crcAppend data) s = .next t ∧ KeepsGroups s t ∧
      Leaves s t 0x00 false 0 0 (crc16 data)
        (data ++ [(crc16 data).extractLsb' 8 8, (crc16 data).extractLsb' 0 8])) ∧
  crc16 [] = 0x0000

/-- R105: `CRC.VERIFY` leaves in `T` whether the last two bytes are the CRC of the bytes before them, high byte first;
a mismatch is no failure; fewer than two bytes is `DataTooShort`; the corner case of two bytes. -/
def Obligations.CrcVerifyResult : Prop :=
  (∀ (data : List Byte) (s : State), data.length ≤ 255 →
    EncodedN 0x02 data (.crcVerify data) ∧
    (2 ≤ data.length →
      ∃ t, exec (.crcVerify data) s = .next t ∧ KeepsGroups s t ∧
        Leaves s t 0x00
          (data.getD (data.length - 2) 0 == (crc16 (data.take (data.length - 2))).extractLsb' 8 8 &&
            data.getD (data.length - 1) 0 == (crc16 (data.take (data.length - 2))).extractLsb' 0 8)
          0 0 (crc16 (data.take (data.length - 2))) []) ∧
    (data.length < 2 →
      ∃ t, exec (.crcVerify data) s = .next t ∧ KeepsGroups s t ∧ Leaves s t 0x01 false 0 0 0 [])) ∧
  (∀ (a b : Byte) (s t : State), exec (.crcVerify [a, b]) s = .next t → (t.t = true ↔ a = 0x00 ∧ b = 0x00))

/-- 40_crc.md R100, R101: the table-driven register update, and that it equals the bit-serial form (the equality is
the spec's own derivation, "[derived: from rule R100]"). -/
def Obligations.CrcStepIsBitSerial : Prop :=
  ∀ (r : Crc) (b : Byte),
    crcStep r b = (r <<< 8) ^^^ crcTable ((r >>> 8).setWidth 8 ^^^ b) ∧
    crcStep r b = crcShifts 8 (r ^^^ (b.setWidth 16 <<< 8))

/-- R106: `CRC.VERIFY` of what `CRC.APPEND` leaves gives `T = 1`; with any one bit of it inverted, `T = 0`; and at the
level of the function for data of any length. -/
def Obligations.CrcRoundTripDetectsFlip : Prop :=
  (∀ (data : List Byte) (s : State), data.length ≤ 253 →
    ∃ t, exec (.crcAppend data) s = .next t ∧
      (∀ s', ∃ u, exec (.crcVerify (Memory.firstBytes t.obuf t.olen.toNat)) s' = .next u ∧ u.t = true) ∧
      (∀ k j s', k < t.olen.toNat → j < 8 →
        ∃ u, exec (.crcVerify ((Memory.firstBytes t.obuf t.olen.toNat).set k
            (Memory.read t.obuf k ^^^ (1#8 <<< j)))) s' = .next u ∧ u.t = false)) ∧
  (∀ data : List Byte, crcVerify (crcAppend data) = true) ∧
  (∀ (data : List Byte) (k j : Nat), k < data.length + 2 → j < 8 →
    crcVerify ((crcAppend data).set k ((crcAppend data).getD k 0 ^^^ (1#8 <<< j))) = false)

/-- 40_crc.md R107 (the spec's own derivation): the register over any data and its trailer, from 0xFFFF and without the final complement, is 0x1D0F. -/
def Obligations.CrcResidue : Prop :=
  ∀ data : List Byte, crcRun 0xFFFF (crcAppend data) = 0x1D0F

/-! ### BPTC -/

/-- R126: `BPTC.EXTRACT` leaves bytes 0 to 23 and the high nibble of byte 24; bytes 25 to 32 have no effect. -/
def Obligations.BptcExtractResult : Prop :=
  ∀ (data : List Byte) (s : State),
    (data.length ≤ 255 → EncodedN 0x10 data (.bptcExtract data)) ∧
    (data.length = 33 →
      ∃ t, exec (.bptcExtract data) s = .next t ∧ KeepsGroups s t ∧
        Leaves s t 0x00 false 0 0 0 (data.take 24 ++ [data.getD 24 0 &&& 0xF0])) ∧
    (data.length ≠ 33 →
      ∃ t, exec (.bptcExtract data) s = .next t ∧ KeepsGroups s t ∧ Leaves s t 0x02 false 0 0 0 [])

/-- R127: `BPTC.DEINT` leaves in output bit i the input bit `(i * 181) mod 196`, the low nibble of byte 24 being
ignored on input and 0 on output; the number of 1 bits is kept. -/
def Obligations.BptcDeintResult : Prop :=
  ∀ (data : List Byte) (s : State),
    (data.length ≤ 255 → EncodedN 0x11 data (.bptcDeint data)) ∧
    (data.length = 25 →
      ∃ t out, exec (.bptcDeint data) s = .next t ∧ KeepsGroups s t ∧ Leaves s t 0x00 false 0 0 0 out ∧
        out.length = 25 ∧ (∀ i < 196, bitAt out i = bitAt data (i * 181 % 196)) ∧
        (∀ i, 196 ≤ i → bitAt out i = false) ∧
        (List.range 196).countP (bitAt out) = (List.range 196).countP (bitAt data)) ∧
    (data.length ≠ 25 →
      ∃ t, exec (.bptcDeint data) s = .next t ∧ KeepsGroups s t ∧ Leaves s t 0x02 false 0 0 0 [])

/-- R128: `BPTC.INTLV` leaves in output bit i the input bit `(i * 13) mod 196`, and undoes `BPTC.DEINT`, both ways, but
for the low nibble of byte 24, which is cleared. -/
def Obligations.BptcIntlvResult : Prop :=
  (∀ (data : List Byte) (s : State),
    (data.length ≤ 255 → EncodedN 0x12 data (.bptcIntlv data)) ∧
    (data.length = 25 →
      ∃ t out, exec (.bptcIntlv data) s = .next t ∧ KeepsGroups s t ∧ Leaves s t 0x00 false 0 0 0 out ∧
        out.length = 25 ∧ (∀ i < 196, bitAt out i = bitAt data (i * 13 % 196)) ∧
        (∀ i, 196 ≤ i → bitAt out i = false) ∧
        (List.range 196).countP (bitAt out) = (List.range 196).countP (bitAt data)) ∧
    (data.length ≠ 25 →
      ∃ t, exec (.bptcIntlv data) s = .next t ∧ KeepsGroups s t ∧ Leaves s t 0x02 false 0 0 0 [])) ∧
  (∀ (data : List Byte) (s : State), data.length = 25 →
    ∃ t u v w,
      exec (.bptcDeint data) s = .next t ∧ exec (.bptcIntlv (Memory.firstBytes t.obuf 25)) t = .next u ∧
      Memory.firstBytes u.obuf 25 = data.take 24 ++ [data.getD 24 0 &&& 0xF0] ∧
      exec (.bptcIntlv data) s = .next v ∧ exec (.bptcDeint (Memory.firstBytes v.obuf 25)) v = .next w ∧
      Memory.firstBytes w.obuf 25 = data.take 24 ++ [data.getD 24 0 &&& 0xF0])

/-- 41_bptc.md R121, R124 (that the two undo each other is the spec's own derivation): the interleaver, that it and the deinterleaver undo each other on every 196-bit vector, and the first values
of its permutation. -/
def Obligations.DeintIntlvInverse : Prop :=
  ∀ v : List Bool, v.length = 196 →
    (∀ i < 196, (intlv v).getD i false = v.getD (i * 13 % 196) false) ∧
    intlv (deint v) = v ∧ deint (intlv v) = v ∧
    (intlv v).take 16 = [0, 13, 26, 39, 52, 65, 78, 91, 104, 117, 130, 143, 156, 169, 182, 195].map
      (fun i => v.getD i false)

/-- R129: `BPTC.HAM8` leaves the group after correction and its value s, with bit 0 of `HAMC` when s is 1 to 8, bit 0
of `HAMU` when it is 9 to 15. -/
def Obligations.BptcHam8Result : Prop :=
  (∀ (data : List Byte) (s : State),
    (data.length ≤ 255 → EncodedN 0x13 data (.bptcHam8 data)) ∧
    (data.length ≠ 1 →
      ∃ t, exec (.bptcHam8 data) s = .next t ∧ KeepsGroups s t ∧ Leaves s t 0x02 false 0 0 0 [])) ∧
  (∀ (b : Byte) (s : State), ham8Syndrome b ≤ 15 ∧
    ∃ t, exec (.bptcHam8 [b]) s = .next t ∧ KeepsGroups s t ∧
      Leaves s t 0x00 false (if 1 ≤ ham8Syndrome b ∧ ham8Syndrome b ≤ 8 then 1 else 0)
        (if 9 ≤ ham8Syndrome b then 1 else 0) 0
        [if 1 ≤ ham8Syndrome b ∧ ham8Syndrome b ≤ 8 then b ^^^ (0x80#8 >>> (ham8Syndrome b - 1)) else b,
          BitVec.ofNat 8 (ham8Syndrome b)])

/-- 41_bptc.md R122, R131 (the spec's own derivation): the byte view of the group correction: the sixteen codewords, which bytes are CLEAN, CORRECTED and
UNCORRECTABLE, what the output can be, single-bit and two-bit changes, and the value s of every byte. -/
def Obligations.Ham8ByteView : Prop :=
  let codewords : List Byte :=
    [0x00, 0x1E, 0x2C, 0x32, 0x4A, 0x54, 0x66, 0x78, 0x86, 0x98, 0xAA, 0xB4, 0xCC, 0xD2, 0xE0, 0xFE]
  (∀ b : Byte,
    (ham8Class b = .clean ↔ b ∈ codewords) ∧ (ham8Class b = .clean ↔ ham8Syndrome b = 0) ∧
    (ham8Class b = .corrected ↔ (b &&& 1 = 0 ∧ b ∉ codewords) ∨ (b &&& 1 = 1 ∧ b ^^^ 1 ∈ codewords)) ∧
    (ham8Class b = .corrected ↔ 1 ≤ ham8Syndrome b ∧ ham8Syndrome b ≤ 8) ∧
    (ham8Class b = .uncorrectable ↔ b &&& 1 = 1 ∧ b ^^^ 1 ∉ codewords) ∧
    (ham8Class b = .uncorrectable ↔ 9 ≤ ham8Syndrome b ∧ ham8Syndrome b ≤ 15) ∧
    (ham8Byte b = if ham8Class b = .corrected then b ^^^ (0x80#8 >>> (ham8Syndrome b - 1)) else b) ∧
    (ham8Class b = .corrected → ham8Byte b ∈ codewords) ∧
    (b &&& 1 = 1 → b ^^^ 1 ∈ codewords → ham8Syndrome b = 8)) ∧
  (∀ c ∈ codewords, ∀ j < 8, ham8Byte (c ^^^ (1#8 <<< j)) = c) ∧
  ((codewords.flatMap (fun c => (List.range 8).flatMap (fun i => ((List.range 8).filter (i < ·)).map
      (fun j => (c, c ^^^ (1#8 <<< i) ^^^ (1#8 <<< j)))))).countP
    (fun p => ham8Class p.2 == .corrected && ham8Byte p.2 != p.1) = 336) ∧
  ((codewords.flatMap (fun c => (List.range 8).flatMap (fun i => ((List.range 8).filter (i < ·)).map
      (fun j => (c, c ^^^ (1#8 <<< i) ^^^ (1#8 <<< j)))))).countP
    (fun p => ham8Class p.2 == .uncorrectable && ham8Byte p.2 == p.2) = 112) ∧
  (List.range 256).map (fun n => ham8Syndrome (BitVec.ofNat 8 n)) =
    [0, 8, 7, 15, 6, 14, 1, 9, 5, 13, 2, 10, 3, 11, 4, 12] ++ [4, 12, 3, 11, 2, 10, 5, 13, 1, 9, 6, 14, 7, 15, 0, 8] ++
    [3, 11, 4, 12, 5, 13, 2, 10, 6, 14, 1, 9, 0, 8, 7, 15] ++ [7, 15, 0, 8, 1, 9, 6, 14, 2, 10, 5, 13, 4, 12, 3, 11] ++
    [2, 10, 5, 13, 4, 12, 3, 11, 7, 15, 0, 8, 1, 9, 6, 14] ++ [6, 14, 1, 9, 0, 8, 7, 15, 3, 11, 4, 12, 5, 13, 2, 10] ++
    [1, 9, 6, 14, 7, 15, 0, 8, 4, 12, 3, 11, 2, 10, 5, 13] ++ [5, 13, 2, 10, 3, 11, 4, 12, 0, 8, 7, 15, 6, 14, 1, 9] ++
    [1, 9, 6, 14, 7, 15, 0, 8, 4, 12, 3, 11, 2, 10, 5, 13] ++ [5, 13, 2, 10, 3, 11, 4, 12, 0, 8, 7, 15, 6, 14, 1, 9] ++
    [2, 10, 5, 13, 4, 12, 3, 11, 7, 15, 0, 8, 1, 9, 6, 14] ++ [6, 14, 1, 9, 0, 8, 7, 15, 3, 11, 4, 12, 5, 13, 2, 10] ++
    [3, 11, 4, 12, 5, 13, 2, 10, 6, 14, 1, 9, 0, 8, 7, 15] ++ [7, 15, 0, 8, 1, 9, 6, 14, 2, 10, 5, 13, 4, 12, 3, 11] ++
    [0, 8, 7, 15, 6, 14, 1, 9, 5, 13, 2, 10, 3, 11, 4, 12] ++ [4, 12, 3, 11, 2, 10, 5, 13, 1, 9, 6, 14, 7, 15, 0, 8]

/-- R130: `BPTC.DECODE` leaves the first twelve groups after correction, and in `HAMC` and `HAMU` the class of all 24;
the ignored bits never matter; all zeros and all ones. -/
def Obligations.BptcDecodeResult : Prop :=
  (∀ (data : List Byte) (s : State),
    (data.length ≤ 255 → EncodedN 0x14 data (.bptcDecode data)) ∧
    (data.length ≠ 33 →
      ∃ t, exec (.bptcDecode data) s = .next t ∧ KeepsGroups s t ∧ Leaves s t 0x02 false 0 0 0 []) ∧
    (data.length = 33 →
      ∃ t hamc hamu, exec (.bptcDecode data) s = .next t ∧ KeepsGroups s t ∧
        Leaves s t 0x00 false hamc hamu 0 ((List.range 12).map (fun k => ham8Byte (rawGroup data k))) ∧
        (∀ k < 24, hamc.getLsbD k = (ham8Class (rawGroup data k) == .corrected)) ∧
        (∀ k < 24, hamu.getLsbD k = (ham8Class (rawGroup data k) == .uncorrectable)) ∧
        hamc &&& hamu = 0)) ∧
  (∀ (data data' : List Byte) (s : State), data.length = 33 → data'.length = 33 →
    data.take 24 = data'.take 24 → data.getD 24 0 &&& 0xF0 = data'.getD 24 0 &&& 0xF0 →
    exec (.bptcDecode data) s = exec (.bptcDecode data') s) ∧
  (∀ s : State, ∃ t u, exec (.bptcDecode (List.replicate 33 0x00)) s = .next t ∧
    Leaves s t 0x00 false 0 0 0 (List.replicate 12 0x00) ∧
    exec (.bptcDecode (List.replicate 33 0xFF)) s = .next u ∧
    Leaves s u 0x00 false 0xFFFFFF 0 0 (List.replicate 12 0xFE))

/-- 41_bptc.md R130 and 44_csbk.md R191, the sentences marked "[derived]" there: vector bits 192 to 195 can change the
masks but never the payload, so only the first 24 bytes of a block reach it; from 27 bytes of a wakeup frame on
the padding is invisible. -/
def Obligations.PayloadNeedsOnly24Bytes : Prop :=
  (∀ (data data' : List Byte) (s t t' : State), data.length = 33 → data'.length = 33 →
    data.take 24 = data'.take 24 →
    exec (.bptcDecode data) s = .next t → exec (.bptcDecode data') s = .next t' →
    t.obuf = t'.obuf ∧ ∀ k < 24, k ∉ [18, 19, 21, 22] →
      t.hamc.getLsbD k = t'.hamc.getLsbD k ∧ t.hamu.getLsbD k = t'.hamu.getLsbD k) ∧
  (∀ (data data' : List Byte) (s : State), 27 ≤ data.length → 27 ≤ data'.length →
    data.take 27 = data'.take 27 → exec (.csbkPut data) s = exec (.csbkPut data') s)

/-! ### Reed-Solomon -/

/-- R154: `GF.MUL` leaves the product; zero and one; the reduction; operand order. -/
def Obligations.GfMulResult : Prop :=
  (∀ (data : List Byte) (s : State),
    (data.length ≤ 255 → EncodedN 0x20 data (.gfMul data)) ∧
    (data.length ≠ 2 →
      ∃ t, exec (.gfMul data) s = .next t ∧ KeepsGroups s t ∧ Leaves s t 0x02 false 0 0 0 [])) ∧
  (∀ (a b : Byte) (s : State), ∃ t, exec (.gfMul [a, b]) s = .next t ∧ KeepsGroups s t ∧
    Leaves s t 0x00 false 0 0 0 [gmult a b] ∧ exec (.gfMul [b, a]) s = .next t ∧
    (a = 0x00 → gmult a b = 0x00) ∧ (a = 0x01 → gmult a b = b)) ∧
  gmult 0x02 0x80 = 0x1D

/-- 42_rs.md R150, R151 (the spec's own derivation): the facts of the field: zero, one, commutative, associative, distributive; 0x02 has order 255 and its powers
are the 255 non-zero bytes; the generator coefficients are those of `(x ^ 2)(x ^ 4)(x ^ 8)`. -/
def Obligations.GfFieldLaws : Prop :=
  (∀ a b c : Byte, gmult a 0 = 0 ∧ gmult 0 a = 0 ∧ gmult a 1 = a ∧ gmult a b = gmult b a ∧
    gmult (gmult a b) c = gmult a (gmult b c) ∧ gmult a (b ^^^ c) = gmult a b ^^^ gmult a c) ∧
  (let pow := fun n => (gmult 2)^[n] 1
   ((List.range 255).map pow).Nodup ∧ (∀ n, pow n ≠ 0) ∧ pow 255 = 1 ∧ pow 8 = 0x1D ∧
   ∀ a : Byte, a ≠ 0 → ∃ n < 255, pow n = a) ∧
  gmult (gmult 2 4) 8 = 64 ∧ gmult 2 4 ^^^ gmult 2 8 ^^^ gmult 4 8 = 56 ∧ (2 ^^^ 4 ^^^ 8 : Byte) = 14

/-- R155: `RS.ENCODE` leaves the three parity bytes, top slot first (R153); the all-zero message; the last byte
alone. -/
def Obligations.RsEncodeResult : Prop :=
  (∀ (msg : List Byte) (s : State),
    (msg.length ≤ 255 → EncodedN 0x21 msg (.rsEncode msg)) ∧
    (msg.length = 9 → ∃ t, exec (.rsEncode msg) s = .next t ∧ KeepsGroups s t ∧
      (rsEncode msg).length = 3 ∧ Leaves s t 0x00 false 0 0 0 (rsEncode msg)) ∧
    (msg.length ≠ 9 →
      ∃ t, exec (.rsEncode msg) s = .next t ∧ KeepsGroups s t ∧ Leaves s t 0x02 false 0 0 0 [])) ∧
  rsEncode (List.replicate 9 0) = [0, 0, 0] ∧
  rsEncode (List.replicate 8 0 ++ [0x01]) = [0x0E, 0x38, 0x40]

/-- R156: `RS.CHECK` leaves in `T` whether bytes 9, 10, 11 are the parity of the first nine; a false check is no
failure; the all-zero word; parity in reverse order. -/
def Obligations.RsCheckResult : Prop :=
  (∀ (data : List Byte) (s : State),
    (data.length ≤ 255 → EncodedN 0x22 data (.rsCheck data)) ∧
    (data.length = 12 → ∃ t, exec (.rsCheck data) s = .next t ∧ KeepsGroups s t ∧
      Leaves s t 0x00 (data.drop 9 == rsEncode (data.take 9)) 0 0 0 []) ∧
    (data.length ≠ 12 →
      ∃ t, exec (.rsCheck data) s = .next t ∧ KeepsGroups s t ∧ Leaves s t 0x02 false 0 0 0 [])) ∧
  (∀ s : State, ∃ t, exec (.rsCheck (List.replicate 12 0)) s = .next t ∧ t.t = true) ∧
  (∀ (msg : List Byte) (s : State), msg.length = 9 → ∃ t,
    exec (.rsCheck (msg ++ (rsEncode msg).reverse)) s = .next t ∧
    t.t = ((rsEncode msg).getD 0 0 == (rsEncode msg).getD 2 0))

/-- R157, its first two sentences: `RS.CHECK` of a message and what `RS.ENCODE` leaves for it gives `T = 1`; a change
of any one of the parity bytes gives `T = 0`. -/
def Obligations.RsSelfConsistency : Prop :=
  ∀ (msg : List Byte) (s : State), msg.length = 9 →
    ∃ t u, exec (.rsEncode msg) s = .next t ∧
      exec (.rsCheck (msg ++ Memory.firstBytes t.obuf 3)) t = .next u ∧ u.t = true ∧
      ∀ k b, 9 ≤ k → k ≤ 11 → b ≠ (msg ++ Memory.firstBytes t.obuf 3).getD k 0 →
        ∃ w, exec (.rsCheck ((msg ++ Memory.firstBytes t.obuf 3).set k b)) t = .next w ∧ w.t = false

/-- 42_rs.md R152, R153, R155, R157, what they mark "[derived]": the code is linear; the twelve bytes of a codeword,
index 0 the highest power, are a polynomial that vanishes at 0x02, 0x04 and 0x08 (by Horner's rule); two
codewords differ in at least four bytes, so any change of one to three bytes gives `T = 0`. -/
def Obligations.RsCodewordRootsAndDistance : Prop :=
  (∀ a b : List Byte, a.length = 9 → b.length = 9 →
    rsEncode (List.zipWith (· ^^^ ·) a b) = List.zipWith (· ^^^ ·) (rsEncode a) (rsEncode b)) ∧
  (∀ (msg : List Byte) (root : Byte), msg.length = 9 → root ∈ ([0x02, 0x04, 0x08] : List Byte) →
    (msg ++ rsEncode msg).foldl (fun acc b => gmult root acc ^^^ b) 0 = 0) ∧
  (∀ (x y : List Byte) (s t : State), x.length = 12 → y.length = 12 →
    exec (.rsCheck x) s = .next t → t.t = true → x ≠ y →
    (List.range 12).countP (fun k => x.getD k 0 != y.getD k 0) ≤ 3 →
    ∃ u, exec (.rsCheck y) s = .next u ∧ u.t = false)

/-! ### Golay -/

/-- R175: `GOLAY.DECODE` of a frame whose word is within 3 bits of a codeword leaves the color code, the data type and
the number of errors, and the byte in `OBUF`; of any other frame `FecUncorrectable` with `ST.*` all 0; frame
bits outside the map never matter; the zero frame. -/
def Obligations.GolayDecodeResult : Prop :=
  (∀ (data : List Byte) (s : State),
    (data.length ≤ 255 → EncodedN 0x30 data (.golayDecode data)) ∧
    (data.length ≠ 21 →
      ∃ t, exec (.golayDecode data) s = .next t ∧ Leaves s t 0x02 false 0 0 0 [] ∧
        t.st = SlotType.zero ∧ t.csbk = s.csbk ∧ t.dh = s.dh) ∧
    (data.length = 21 → s.cfg.GolayDmin7 →
      (∀ m : Byte, dist (slotGet s.cfg data) (golayCw s.cfg m) ≤ 3 →
        ∃ t, exec (.golayDecode data) s = .next t ∧ Leaves s t 0x00 false 0 0 0 [m] ∧
          t.st.v = true ∧ t.st.cc = m.extractLsb' 4 4 ∧ t.st.dt = m.extractLsb' 0 4 ∧
          t.st.nerr.toNat = dist (slotGet s.cfg data) (golayCw s.cfg m) ∧ t.csbk = s.csbk ∧ t.dh = s.dh) ∧
      ((∀ m : Byte, 3 < dist (slotGet s.cfg data) (golayCw s.cfg m)) →
        ∃ t, exec (.golayDecode data) s = .next t ∧ Leaves s t 0x04 false 0 0 0 [] ∧
          t.st = SlotType.zero ∧ t.csbk = s.csbk ∧ t.dh = s.dh))) ∧
  (∀ (data data' : List Byte) (s : State), data.length = 21 → data'.length = 21 →
    (∀ k < 20, bitAt data (slotPos s.cfg k) = bitAt data' (slotPos s.cfg k)) →
    exec (.golayDecode data) s = exec (.golayDecode data') s) ∧
  (∀ s : State, s.cfg.GolayDmin7 → ∃ t, exec (.golayDecode (List.replicate 21 0)) s = .next t ∧
    t.st = { v := true, cc := 0, dt := 0, nerr := 0 } ∧ t.status = 0x00)

/-- R176: `GOLAY.ENCODE` leaves the frame with exactly the twenty map bits replaced by the codeword of `ARG`, whatever
the other bits are; every `ARG` is legal; `ST.*` is not written. -/
def Obligations.GolayEncodeResult : Prop :=
  ∀ (cc dt : BitVec 4) (data : List Byte) (s : State),
    (data.length ≤ 255 →
      decode (0x31 :: (cc ++ dt) :: BitVec.ofNat 8 data.length :: data) = .ok (.golayEncode cc dt data)) ∧
    (data.length ≠ 21 →
      ∃ t, exec (.golayEncode cc dt data) s = .next t ∧ KeepsGroups s t ∧ Leaves s t 0x02 false 0 0 0 []) ∧
    (data.length = 21 → s.cfg.SlotDistinct →
      ∃ t out, exec (.golayEncode cc dt data) s = .next t ∧ KeepsGroups s t ∧
        Leaves s t 0x00 false 0 0 0 out ∧ out.length = 21 ∧
        (∀ k < 20, bitAt out (slotPos s.cfg k) = (golayCw s.cfg (cc ++ dt)).getMsbD k) ∧
        (∀ i < 168, (∀ k < 20, slotPos s.cfg k ≠ i) → bitAt out i = bitAt data i))

/-- 43_golay.md R170 to R172, R176, R177, what they mark "[derived]": under any parameters within their constraints,
every pattern of at most three bit errors on the codeword of a byte, laid in any frame, is corrected, and its
weight is counted; `GOLAY.DECODE` of what `GOLAY.ENCODE` leaves gives `ARG` back with no error. -/
def Obligations.GolayCorrectsThreeErrors : Prop :=
  (∀ (m : Byte) (e : Codeword) (frame : List Byte) (s : State), s.cfg.WF → frame.length = 21 → wt e ≤ 3 →
    ∃ t, exec (.golayDecode (slotPut s.cfg frame (golayCw s.cfg m ^^^ e))) s = .next t ∧
      t.status = 0x00 ∧ t.st.v = true ∧ t.st.cc ++ t.st.dt = m ∧ t.st.nerr.toNat = wt e ∧
      Memory.firstBytes t.obuf t.olen.toNat = [m]) ∧
  (∀ (cc dt : BitVec 4) (frame : List Byte) (s : State), s.cfg.WF → frame.length = 21 →
    ∃ t u, exec (.golayEncode cc dt frame) s = .next t ∧
      exec (.golayDecode (Memory.firstBytes t.obuf t.olen.toNat)) t = .next u ∧
      u.st = { v := true, cc := cc, dt := dt, nerr := 0 })

/-- R177: gathering and scattering, bit by bit, and that gathering what was scattered gives it back because the
positions are distinct (this last is the spec's own derivation; it follows from the clauses before it). -/
def Obligations.SlotGetPut : Prop :=
  ∀ (c : Config) (frame : List Byte) (w : Codeword), c.SlotDistinct → frame.length = 21 →
    (∀ k < 20, (slotGet c frame).getLsbD (19 - k) = bitAt frame (slotPos c k)) ∧
    (slotPut c frame w).length = 21 ∧
    (∀ k < 20, bitAt (slotPut c frame w) (slotPos c k) = w.getLsbD (19 - k)) ∧
    (∀ i < 168, (∀ k < 20, slotPos c k ≠ i) → bitAt (slotPut c frame w) i = bitAt frame i) ∧
    slotGet c (slotPut c frame w) = w

/-- 43_golay.md R170, R171, 00_scope.md R6: `GOLAY_PAR` of any parameters is linear and its code systematic; the
default rows are those the polynomial 0xC75 and the parity bit give, its code has minimum distance 8, and
the default parameters meet every constraint (the values of the defaults are PRESUMED: log 2). -/
def Obligations.GolayCodeLinearAndDefaultDistance : Prop :=
  (∀ (c : Config) (a b : Byte), golayPar c (a ^^^ b) = golayPar c a ^^^ golayPar c b ∧
    (golayCw c a).extractLsb' 12 8 = a ∧ (golayCw c a).extractLsb' 0 12 = golayPar c a) ∧
  (∀ m : Byte, golayPar defaultConfig m = defaultGolayPar m) ∧
  (∀ a b : Byte, a ≠ b → 8 ≤ dist (golayCw defaultConfig a) (golayCw defaultConfig b)) ∧
  defaultConfig.WF

/-! ### CSBK -/

/-- R195: the dispatch on the opcode: the fields each supported opcode populates, everything else 0, and
`UnsupportedOpcode` with the whole group 0 for any other; with it what `CSBK.PUT` leaves (R196). -/
def Obligations.CsbkPutDispatch : Prop :=
  ∀ (data payload : List Byte) (s : State), 2 ≤ data.length →
    data.getD 0 0 = s.cfg.tagData → data.getD 1 0 = s.cfg.wakeupFlags →
    payload = (bptcDecode (padOrTruncate data)).payload →
    ∃ t hamc hamu, exec (.csbkPut data) s = .next t ∧ t.dh = s.dh ∧ t.st = s.st ∧
      hamc = (bptcDecode (padOrTruncate data)).hamc ∧ hamu = (bptcDecode (padOrTruncate data)).hamu ∧
      ((payload.getD 0 0).extractLsb' 0 6 = s.cfg.opcBsdwnact →
        Leaves s t 0x00 false hamc hamu (crc16 payload)
          (payload ++ [(crc16 payload).extractLsb' 8 8, (crc16 payload).extractLsb' 0 8]) ∧
        t.csbk = { v := true, csbko := s.cfg.opcBsdwnact, fid := payload.getD 1 0, gi := false, cbf := false,
                   ovcm := false, dstid := 0,
                   bsid := payload.getD 4 0 ++ payload.getD 5 0 ++ payload.getD 6 0,
                   srcid := payload.getD 7 0 ++ payload.getD 8 0 ++ payload.getD 9 0,
                   data := t.csbk.data } ∧
        bytesOfReg 14 t.csbk.data = Memory.firstBytes t.obuf 14) ∧
      ((payload.getD 0 0).extractLsb' 0 6 = s.cfg.opcUuvreq → s.cfg.opcBsdwnact ≠ s.cfg.opcUuvreq →
        Leaves s t 0x00 false hamc hamu (crc16 payload)
          (payload ++ [(crc16 payload).extractLsb' 8 8, (crc16 payload).extractLsb' 0 8]) ∧
        t.csbk = { v := true, csbko := s.cfg.opcUuvreq, fid := payload.getD 1 0, gi := false, cbf := false,
                   ovcm := (payload.getD 2 0).getLsbD 2, bsid := 0,
                   dstid := payload.getD 4 0 ++ payload.getD 5 0 ++ payload.getD 6 0,
                   srcid := payload.getD 7 0 ++ payload.getD 8 0 ++ payload.getD 9 0,
                   data := t.csbk.data } ∧
        bytesOfReg 14 t.csbk.data = Memory.firstBytes t.obuf 14) ∧
      ((payload.getD 0 0).extractLsb' 0 6 ≠ s.cfg.opcBsdwnact →
        (payload.getD 0 0).extractLsb' 0 6 ≠ s.cfg.opcUuvreq →
        Leaves s t 0x06 false hamc hamu (crc16 payload) [] ∧ t.csbk = Csbk.zero)

/-- R190: the header test is the equality of both whole bytes with the parameters; a frame that fails it, and one with
no header, is rejected with the group 0 (44_csbk.md R196). -/
def Obligations.CsbkPutRejects : Prop :=
  ∀ (data : List Byte) (s : State),
    (data.length ≤ 255 → EncodedN 0x40 data (.csbkPut data)) ∧
    (data.length < 2 →
      ∃ t, exec (.csbkPut data) s = .next t ∧ Leaves s t 0x01 false 0 0 0 [] ∧ t.csbk = Csbk.zero ∧
        t.dh = s.dh ∧ t.st = s.st) ∧
    (2 ≤ data.length → (data.getD 0 0 ≠ s.cfg.tagData ∨ data.getD 1 0 ≠ s.cfg.wakeupFlags) →
      ∃ t, exec (.csbkPut data) s = .next t ∧ Leaves s t 0x05 false 0 0 0 [] ∧ t.csbk = Csbk.zero ∧
        t.dh = s.dh ∧ t.st = s.st) ∧
    (2 ≤ data.length → data.getD 0 0 = s.cfg.tagData → data.getD 1 0 = s.cfg.wakeupFlags →
      ∃ t, exec (.csbkPut data) s = .next t ∧ t.status ≠ 0x05)

/-- 44_csbk.md R193 (the spec's own derivation, from 40_crc.md R106): the fresh trailer always verifies, so `CSBK.PUT` never raises `InvalidCRC`; the 14 bytes of a success are
the payload and its trailer. -/
def Obligations.CsbkPutNeverInvalidCrc : Prop :=
  (∀ data : List Byte, crcVerify (crcAppend (bptcDecode (padOrTruncate data)).payload) = true) ∧
  (∀ (data : List Byte) (s t : State), exec (.csbkPut data) s = .next t →
    t.status ≠ 0x03 ∧
    (t.csbk.v = true → bytesOfReg 14 t.csbk.data = crcAppend (bptcDecode (padOrTruncate data)).payload))

/-- 44_csbk.md R196 corner cases, 41_bptc.md R131, 90_conflicts.md C7: every payload byte is an output of the group
correction, so with the default parameters (PRESUMED: log 2) no frame gives `OPC_UUVREQ`, and under any
parameters none gives the source identity 67890 = 0x010932. -/
def Obligations.CsbkPutUnreachableResults : Prop :=
  (∀ (data : List Byte) (s t : State), exec (.csbkPut data) s = .next t →
    t.csbk.srcid ≠ 0x010932 ∧ (s.cfg = defaultConfig → t.csbk.csbko ≠ 0x04)) ∧
  (∀ data : List Byte, ∀ b ∈ (bptcDecode (padOrTruncate data)).payload, ham8Byte b = b)

/-- 44_csbk.md R197 (how the frame is built is the spec's own derivation): a frame built from twelve bytes the group correction leaves unchanged, any 100 further bits, interleaved and
packed, then any 8 bytes, decodes to those bytes: with `OPC_BSDWNACT` its fields are populated, with an
unrecognised opcode it is `UnsupportedOpcode`. -/
def Obligations.CsbkEncodedPayloadDecodes : Prop :=
  ∀ (payload tail8 : List Byte) (tail : List Bool) (s : State), payload.length = 12 → tail8.length = 8 →
    tail.length = 100 → (∀ b ∈ payload, ham8Byte b = b) →
    ∃ t, exec (.csbkPut ([s.cfg.tagData, s.cfg.wakeupFlags] ++
        pack (intlv (bitsOf payload 96 ++ tail)) ++ tail8)) s = .next t ∧
      ((payload.getD 0 0).extractLsb' 0 6 = s.cfg.opcBsdwnact →
        t.status = 0x00 ∧ t.csbk.v = true ∧ t.csbk.csbko = s.cfg.opcBsdwnact ∧
        t.csbk.bsid = payload.getD 4 0 ++ payload.getD 5 0 ++ payload.getD 6 0 ∧
        t.csbk.srcid = payload.getD 7 0 ++ payload.getD 8 0 ++ payload.getD 9 0 ∧
        Memory.firstBytes t.obuf 12 = payload ∧ t.hamc &&& 0xFFF = 0) ∧
      ((payload.getD 0 0).extractLsb' 0 6 ∉ [s.cfg.opcBsdwnact, s.cfg.opcUuvreq] →
        t.status = 0x06 ∧ t.csbk = Csbk.zero)

/-- R191: the block is the bytes from index 2 on, padded with 0x00 at the end or cut to 33; so missing bytes act as
zero bytes, and bytes from index 35 on do not matter. -/
def Obligations.CsbkPutPadsAndTruncates : Prop :=
  (∀ (data : List Byte) (i : Nat), i < 33 →
    (padOrTruncate data).length = 33 ∧
    (padOrTruncate data).getD i 0 = if 2 + i < data.length then data.getD (2 + i) 0 else 0) ∧
  (∀ (data : List Byte) (n : Nat) (s : State), 2 ≤ data.length →
    exec (.csbkPut data) s = exec (.csbkPut (data ++ List.replicate n 0)) s) ∧
  (∀ (data : List Byte) (s : State), exec (.csbkPut data) s = exec (.csbkPut (data.take 35)) s)

/-! ### DataHeader -/

/-- R211: `DH.PUT` of a block whose trailer matches leaves its fields and its 12 bytes; a mismatch is `InvalidCRC` with
the computed CRC in `CRCVAL` and the group 0; fewer than 12 bytes is `DataTooShort`; bytes from index 12 on
change nothing; twelve zeros, ten zeros with their trailer. -/
def Obligations.DhPutResult : Prop :=
  (∀ (data : List Byte) (s : State),
    (data.length ≤ 255 → EncodedN 0x41 data (.dhPut data)) ∧
    (data.length < 12 →
      ∃ t, exec (.dhPut data) s = .next t ∧ Leaves s t 0x01 false 0 0 0 [] ∧ t.dh = DataHeader.zero ∧
        t.csbk = s.csbk ∧ t.st = s.st) ∧
    (12 ≤ data.length → data.getD 10 0 ++ data.getD 11 0 ≠ crc16 (data.take 10) →
      ∃ t, exec (.dhPut data) s = .next t ∧ Leaves s t 0x03 false 0 0 (crc16 (data.take 10)) [] ∧
        t.dh = DataHeader.zero ∧ t.csbk = s.csbk ∧ t.st = s.st) ∧
    (12 ≤ data.length → data.getD 10 0 ++ data.getD 11 0 = crc16 (data.take 10) →
      ∃ t, exec (.dhPut data) s = .next t ∧
        Leaves s t 0x00 false 0 0 (crc16 (data.take 10)) (data.take 12) ∧
        t.dh = { v := true, gi := (data.getD 0 0).getLsbD 7, a := (data.getD 0 0).getLsbD 6,
                 dstid := data.getD 2 0 ++ data.getD 3 0 ++ data.getD 4 0,
                 srcid := data.getD 5 0 ++ data.getD 6 0 ++ data.getD 7 0, data := t.dh.data } ∧
        bytesOfReg 12 t.dh.data = data.take 12 ∧ t.csbk = s.csbk ∧ t.st = s.st)) ∧
  (∀ (data : List Byte) (s : State), exec (.dhPut data) s = exec (.dhPut (data.take 12)) s) ∧
  crc16 (List.replicate 10 0) = 0x1EC6 ∧
  (∀ s : State, ∃ t u, exec (.dhPut (List.replicate 12 0)) s = .next t ∧ t.status = 0x03 ∧
    exec (.dhPut (List.replicate 10 0 ++ [0x1E, 0xC6])) s = .next u ∧ u.status = 0x00 ∧
    u.dh = { v := true, gi := false, a := false, dstid := 0, srcid := 0, data := 0x1EC6 })

/-! ### Several blocks -/

/-- 20_memory.md R61: instance k of a system steps by its own state alone: its next state is the step of its state, whatever the
others hold, and every other instance, its registers and its `OBUF` included, is as before; instances that share their
parameters still share them after any step of any instance; with no shared state there is no order between two of
them: their steps reach the same system either way. The system as a list of states, and that a refusal of one block's step is
the outcome of the system's step, are the model's choice (log 11). -/
def Obligations.InstancesShareNothing : Prop :=
  ∀ (blocks : List State) (k : Nat) (s : State), blocks[k]? = some s →
    (∀ t, step s = .next t → ∃ sys, stepInstance k blocks = .next sys ∧ sys.length = blocks.length ∧
      sys[k]? = some t ∧ t.cfg = s.cfg ∧ (∀ j, j ≠ k → sys[j]? = blocks[j]?) ∧
      (∀ c : Config, (∀ b ∈ blocks, b.cfg = c) → ∀ b ∈ sys, b.cfg = c)) ∧
    (∀ r, step s = .refused r → stepInstance k blocks = .refused r) ∧
    (∀ (j : Nat) (a s' a' : State), j ≠ k → blocks[j]? = some a → step s = .next s' → step a = .next a' →
      ∃ x y z, stepInstance k blocks = .next x ∧ stepInstance j x = .next z ∧
        stepInstance j blocks = .next y ∧ stepInstance k y = .next z ∧
        z[k]? = some s' ∧ z[j]? = some a')

/-! ### Worked examples -/

/-- The worked examples of the commands' rules (R104, R105, R126 to R130, R154 to R156, R211), each marked "[derived]"
there: a command, then the `STATUS`, `T`, `HAMC`, `HAMU`, `CRCVAL` and output bytes it leaves in every state. -/
def Obligations.WorkedExamples : Prop :=
  ∀ s : State, ∀ e ∈ ([
    (.crcAppend [0x31, 0x32, 0x33, 0x34, 0x35, 0x36, 0x37, 0x38, 0x39], 0x00, false, 0, 0, 0xD64E,
      [0x31, 0x32, 0x33, 0x34, 0x35, 0x36, 0x37, 0x38, 0x39, 0xD6, 0x4E]),
    (.crcVerify [0x31, 0x32, 0x33, 0x34, 0x35, 0x36, 0x37, 0x38, 0x39, 0xD6, 0x4E], 0x00, true, 0, 0, 0xD64E, []),
    (.crcVerify [0x31, 0x32, 0x33, 0x34, 0x35, 0x36, 0x37, 0x38, 0x39, 0x4E, 0xD6], 0x00, false, 0, 0, 0xD64E, []),
    (.bptcExtract (List.replicate 24 0x00 ++ [0xAF] ++ List.replicate 8 0xFF), 0x00, false, 0, 0, 0,
      List.replicate 24 0x00 ++ [0xA0]),
    (.bptcDeint (0x40 :: List.replicate 24 0x00), 0x00, false, 0, 0, 0, 0x00 :: 0x04 :: List.replicate 23 0x00),
    (.bptcIntlv (0x00 :: 0x04 :: List.replicate 23 0x00), 0x00, false, 0, 0, 0, 0x40 :: List.replicate 24 0x00),
    (.bptcHam8 [0x7A], 0x00, false, 1, 0, 0, [0x78, 0x07]),
    (.bptcHam8 [0x09], 0x00, false, 0, 1, 0, [0x09, 0x0D]),
    (.bptcDecode [0x06, 0x00, 0x34, 0x00, 0x60, 0x00, 0xA0, 0x01, 0x20, 0x00, 0xC0, 0x00, 0x00, 0x04, 0x00,
      0x0C, 0x00, 0x84, 0x01, 0x20, 0x02, 0x30, 0x04, 0, 0, 0, 0, 0, 0, 0, 0, 0, 0], 0x00, false, 0, 0, 0,
      [0x78, 0x00, 0x00, 0x00, 0x1E, 0x2C, 0x32, 0x4A, 0x54, 0x66, 0x00, 0x00]),
    (.gfMul [0x53, 0xCA], 0x00, false, 0, 0, 0, [0x8F]),
    (.rsEncode [1, 2, 3, 4, 5, 6, 7, 8, 9], 0x00, false, 0, 0, 0, [0xBC, 0x70, 0x1F]),
    (.rsCheck [1, 2, 3, 4, 5, 6, 7, 8, 9, 0xBC, 0x70, 0x1F], 0x00, true, 0, 0, 0, []),
    (.rsCheck [1, 2, 3, 4, 5, 6, 7, 8, 9, 0x1F, 0x70, 0xBC], 0x00, false, 0, 0, 0, []),
    (.dhPut [0xC0, 0x00, 0x00, 0x0C, 0x30, 0x01, 0x09, 0x32, 0x00, 0x00, 0x07, 0xEC], 0x00, false, 0, 0, 0x07EC,
      [0xC0, 0x00, 0x00, 0x0C, 0x30, 0x01, 0x09, 0x32, 0x00, 0x00, 0x07, 0xEC])] :
      List (Instr × Byte × Bool × BitVec 24 × BitVec 24 × Crc × List Byte)),
    ∃ t, exec e.1 s = .next t ∧
      Leaves s t e.2.1 e.2.2.1 e.2.2.2.1 e.2.2.2.2.1 e.2.2.2.2.2.1 e.2.2.2.2.2.2

/-- The worked examples of R175, R176, R196, each marked "[derived]" there, under the default parameters (PRESUMED: log
2), and the corner cases they decide: an all-ones frame, a wakeup frame with nothing but a good header. -/
def Obligations.DefaultWorkedExamples : Prop :=
  ∀ s : State, s.cfg = defaultConfig →
    ∃ t u v w x y,
      exec (.golayDecode (List.replicate 12 0x00 ++ [0x24, 0xD0, 0, 0, 0, 0, 0, 0x0A, 0xCC])) s = .next t ∧
      t.st = { v := true, cc := 1, dt := 3, nerr := 3 } ∧ Leaves s t 0x00 false 0 0 0 [0x13] ∧
      exec (.golayDecode (List.replicate 21 0xFF)) s = .next u ∧ Leaves s u 0x04 false 0 0 0 [] ∧
      exec (.golayEncode 1 3 (List.replicate 21 0x00)) s = .next v ∧
      Leaves s v 0x00 false 0 0 0 (List.replicate 12 0x00 ++ [0x04, 0xC0, 0, 0, 0, 0, 0, 0x0A, 0xC8]) ∧
      exec (.golayEncode 1 3 (List.replicate 21 0xFF)) s = .next w ∧
      Leaves s w 0x00 false 0 0 0
        (List.replicate 12 0xFF ++ [0xC4, 0xCF, 0xFF, 0xFF, 0xFF, 0xFF, 0xFF, 0xFA, 0xCB]) ∧
      exec (.csbkPut [0x00, 0x03, 0x06, 0x00, 0x34, 0x00, 0x60, 0x00, 0xA0, 0x01, 0x20, 0x00, 0xC0, 0x00, 0x00, 0x04,
        0x00, 0x0C, 0x00, 0x84, 0x01, 0x20, 0x02, 0x30, 0x04, 0, 0, 0, 0, 0, 0, 0, 0]) s = .next x ∧
      Leaves s x 0x00 false 0 0 0x1E2D
        [0x78, 0x00, 0x00, 0x00, 0x1E, 0x2C, 0x32, 0x4A, 0x54, 0x66, 0x00, 0x00, 0x1E, 0x2D] ∧
      x.csbk = { v := true, csbko := 0x38, fid := 0x00, gi := false, cbf := false, ovcm := false, bsid := 0x1E2C32,
                 srcid := 0x4A5466, dstid := 0, data := 0x780000001E2C324A546600001E2D } ∧
      exec (.csbkPut [0x00, 0x03]) s = .next y ∧ y.status = 0x06 ∧ y.csbk = Csbk.zero
end

