-- ==== Sys2Proof/Laws/Bits.lean ====
section
/-! SUPPORT. What the bit and byte functions of Machine/Bits.lean give, once: the bits of a word built from bits, the
lengths of bitsof and pack, and that each undoes the other. -/

namespace Sys2Proof.Machine

theorem getLsbD_ofBitsLsb (n i : Nat) (f : Nat → Bool) :
    (ofBitsLsb n f).getLsbD i = (decide (i < n) && f i) := by
  induction n with
  | zero => simp [ofBitsLsb]
  | succ n ih =>
    simp only [ofBitsLsb, BitVec.getLsbD_cons, ih]
    split
    · subst_vars; simp
    · by_cases h : i < n <;> simp [h] <;> omega

theorem getMsbD_ofBitsMsb (n i : Nat) (f : Nat → Bool) :
    (ofBitsMsb n f).getMsbD i = (decide (i < n) && f i) := by
  rw [BitVec.getMsbD, ofBitsMsb, getLsbD_ofBitsLsb]
  by_cases h : i < n
  · simp [h, show n - 1 - i < n by omega, show n - 1 - (n - 1 - i) = i by omega]
  · simp [h]

@[simp] theorem length_bitsOf (bytes : List Byte) (n : Nat) : (bitsOf bytes n).length = n := by
  simp [bitsOf]

@[simp] theorem length_pack (v : List Bool) : (pack v).length = (v.length + 7) / 8 := by
  simp [pack]

theorem getD_bitsOf (bytes : List Byte) (n i : Nat) (h : i < n) :
    (bitsOf bytes n).getD i false = (bytes.getD (i / 8) 0#8).getMsbD (i % 8) := by
  simp [bitsOf, h]

theorem getMsbD_getD_pack (v : List Bool) (k j : Nat) (hj : j < 8) :
    ((pack v).getD k 0#8).getMsbD j = v.getD (8 * k + j) false := by
  by_cases hk : k < (v.length + 7) / 8
  · simp [pack, hk, getMsbD_ofBitsMsb, hj]
  · have hv : v.length ≤ 8 * k + j := by omega
    simp [pack, hk, List.getElem?_eq_none hv]

/-- `pack` loses no bit: reading the packed bytes back gives the vector. -/
theorem bitsOf_pack (v : List Bool) : bitsOf (pack v) v.length = v := by
  apply List.ext_getElem (by simp)
  intro i h1 h2
  have h : (bitsOf (pack v) v.length).getD i false = v.getD i false := by
    rw [getD_bitsOf _ _ _ h2, getMsbD_getD_pack _ _ _ (Nat.mod_lt _ (by omega)), Nat.div_add_mod]
  simpa [List.getD_eq_getElem?_getD, List.getElem?_eq_getElem h1, List.getElem?_eq_getElem h2] using h

end Sys2Proof.Machine
end

