-- ==== Sys2Proof/Laws/Memory.lean ====
section
/-! SUPPORT. The laws of the output buffer: a read after a write, every other byte as before, and that every operation
keeps the canonical form. -/

namespace Sys2Proof.Machine

@[simp] theorem read_nil (a : Nat) : Memory.read [] a = 0#8 := rfl

@[simp] theorem read_cleared (a : Nat) : Memory.read Memory.cleared a = 0#8 := rfl

/-- Below every listed address a byte reads 0x00. -/
theorem read_of_lt {m : Memory} {a : Nat} (h : ∀ c ∈ m, a < c.1) : Memory.read m a = 0#8 := by
  induction m with
  | nil => rfl
  | cons c rest ih =>
    have hc := h c (by simp)
    simp only [Memory.read, show ¬ c.1 = a by omega, if_false]
    exact ih (fun d hd => h d (by simp [hd]))

/-- A listed address of a write is the address written or one listed before, and what is listed is not 0x00. -/
theorem mem_write {m : Memory} {a : Nat} {b : Byte} {c : Host.Cell} (h : c ∈ Memory.write m a b) :
    c ∈ m ∨ (c = (a, b) ∧ b ≠ 0#8) := by
  induction m with
  | nil => by_cases hb : b = 0#8 <;> simp_all [Memory.write]
  | cons d rest ih =>
    simp only [Memory.write] at h
    split_ifs at h with h1 hb h2 hb
    · exact .inl h
    · rcases List.mem_cons.1 h with h | h
      · exact .inr ⟨h, hb⟩
      · exact .inl h
    · exact .inl (List.mem_cons_of_mem _ h)
    · rcases List.mem_cons.1 h with h | h
      · exact .inr ⟨h, hb⟩
      · exact .inl (List.mem_cons_of_mem _ h)
    · rcases List.mem_cons.1 h with h | h
      · exact .inl (h ▸ List.mem_cons_self)
      · exact (ih h).imp_left (List.mem_cons_of_mem _)

theorem write_sorted {m : Memory} {a : Nat} {b : Byte} (h : m.Pairwise (fun c d => c.1 < d.1)) :
    (Memory.write m a b).Pairwise (fun c d => c.1 < d.1) := by
  induction m with
  | nil => by_cases hb : b = 0#8 <;> simp [Memory.write, hb]
  | cons d rest ih =>
    obtain ⟨hd, hr⟩ := List.pairwise_cons.1 h
    simp only [Memory.write]
    split_ifs with h1 hb h2 hb
    · exact h
    · refine List.pairwise_cons.2 ⟨fun c hc => ?_, h⟩
      rcases List.mem_cons.1 hc with rfl | hc
      · exact h1
      · exact h1.trans (hd c hc)
    · exact hr
    · exact List.pairwise_cons.2 ⟨fun c hc => h2 ▸ hd c hc, hr⟩
    · refine List.pairwise_cons.2 ⟨fun c hc => ?_, ih hr⟩
      rcases mem_write hc with hc | ⟨rfl, -⟩
      · exact hd c hc
      · exact (show d.1 < a by omega)

/-- A write inside the buffer keeps the canonical form. -/
theorem write_wf {m : Memory} {a : Nat} {b : Byte} (h : Memory.wf m) (ha : a < obufSize) :
    Memory.wf (Memory.write m a b) := by
  refine ⟨write_sorted h.1, fun c hc => ?_⟩
  rcases mem_write hc with hc | ⟨rfl, hb⟩
  · exact h.2 c hc
  · exact ⟨ha, hb⟩

theorem read_cons (c : Host.Cell) (rest : Memory) (x : Nat) :
    Memory.read (c :: rest) x = if c.1 = x then c.2 else Memory.read rest x := rfl

/-- A read after a write: the byte written at its address, every other byte as before. -/
theorem read_write {m : Memory} (h : m.Pairwise (fun c d => c.1 < d.1)) (a x : Nat) (b : Byte) :
    Memory.read (Memory.write m a b) x = if x = a then b else Memory.read m x := by
  induction m with
  | nil =>
    by_cases hb : b = 0#8
    · simp [Memory.write, hb]
    · simp only [Memory.write, hb, if_false, read_cons, eq_comm (a := a)]
  | cons d rest ih =>
    obtain ⟨hd, hr⟩ := List.pairwise_cons.1 h
    simp only [Memory.write]
    by_cases h1 : a < d.1
    · have hlow : Memory.read (d :: rest) a = 0#8 := read_of_lt fun c hc => by
        rcases List.mem_cons.1 hc with rfl | hc
        · exact h1
        · exact h1.trans (hd c hc)
      by_cases hb : b = 0#8
      · rw [if_pos h1, if_pos hb]
        split_ifs with hx
        · rw [hx, hlow, hb]
        · rfl
      · rw [if_pos h1, if_neg hb, read_cons]
        simp only [eq_comm (a := a)]
    · by_cases h2 : a = d.1
      · subst h2
        have hlow : Memory.read rest d.1 = 0#8 := read_of_lt hd
        by_cases hb : b = 0#8
        · rw [if_neg h1, if_pos rfl, if_pos hb, read_cons]
          by_cases hx : x = d.1
          · rw [if_pos hx, hx, hlow, hb]
          · rw [if_neg hx, if_neg (Ne.symm hx)]
        · rw [if_neg h1, if_pos rfl, if_neg hb, read_cons, read_cons]
          by_cases hx : x = d.1
          · rw [if_pos hx, if_pos hx.symm]
          · rw [if_neg hx, if_neg (Ne.symm hx), if_neg (Ne.symm hx)]
      · rw [if_neg h1, if_neg h2, read_cons, read_cons, ih hr]
        by_cases hx : x = a
        · rw [if_pos hx, if_neg (fun hy => h2 (hx.symm.trans hy.symm)), if_pos hx]
        · rw [if_neg hx, if_neg hx]

/-- Writing bytes that fit in the buffer keeps the canonical form. -/
theorem writeBytes_wf {m : Memory} {a : Nat} {bytes : List Byte} (h : Memory.wf m)
    (ha : a + bytes.length ≤ obufSize) : Memory.wf (Memory.writeBytes m a bytes) := by
  induction bytes generalizing m a with
  | nil => simpa [Memory.writeBytes] using h
  | cons b rest ih =>
    simp only [List.length_cons] at ha
    exact ih (write_wf h (by omega)) (by omega)

theorem writeBytes_sorted {m : Memory} {a : Nat} {bytes : List Byte}
    (h : m.Pairwise (fun c d => c.1 < d.1)) :
    (Memory.writeBytes m a bytes).Pairwise (fun c d => c.1 < d.1) := by
  induction bytes generalizing m a with
  | nil => simpa [Memory.writeBytes] using h
  | cons b rest ih => exact ih (write_sorted h)

/-- After `OBUF[a..] <- bytes` a byte of the range reads what was written, every other byte as before. -/
theorem read_writeBytes {m : Memory} (h : m.Pairwise (fun c d => c.1 < d.1)) (a x : Nat) (bytes : List Byte) :
    Memory.read (Memory.writeBytes m a bytes) x =
      if a ≤ x ∧ x < a + bytes.length then bytes.getD (x - a) 0#8 else Memory.read m x := by
  induction bytes generalizing m a with
  | nil => simp [Memory.writeBytes, show ¬ (a ≤ x ∧ x < a) by omega]
  | cons b rest ih =>
    simp only [Memory.writeBytes, ih (write_sorted h), read_write h, List.length_cons]
    by_cases h1 : a + 1 ≤ x ∧ x < a + 1 + rest.length
    · have h2 : x - a = (x - (a + 1)) + 1 := by omega
      simp [h1, h2, show a ≤ x ∧ x < a + (rest.length + 1) by omega]
    · by_cases hx : x = a
      · subst hx; simp
      · rw [if_neg h1, if_neg hx, if_neg (by omega)]

/-- The output of a command written over the cleared buffer: `bytes`, then 0x00 (10_state.md R27). -/
theorem read_writeBytes_cleared (bytes : List Byte) (x : Nat) :
    Memory.read (Memory.writeBytes Memory.cleared 0 bytes) x = bytes.getD x 0#8 := by
  rw [read_writeBytes (by simp [Memory.cleared])]
  by_cases h : x < bytes.length
  · simp [h]
  · simp [h]

theorem cleared_wf : Memory.wf Memory.cleared := by simp [Memory.wf, Memory.cleared]

end Sys2Proof.Machine
end

