-- ==== Sys2Proof/Laws/State.lean ====
section
/-! SUPPORT. One lemma per field and update of the state (Machine/Ops.lean), each true by rfl, so that no proof unfolds
a record update. -/

namespace Sys2Proof.Machine

/-! ### setStatus -/

@[simp] theorem setStatus_status (x : Status) (s : State) : (setStatus x s).status = statusCode x := rfl
@[simp] theorem setStatus_t (x : Status) (s : State) : (setStatus x s).t = s.t := rfl
@[simp] theorem setStatus_olen (x : Status) (s : State) : (setStatus x s).olen = s.olen := rfl
@[simp] theorem setStatus_hamc (x : Status) (s : State) : (setStatus x s).hamc = s.hamc := rfl
@[simp] theorem setStatus_hamu (x : Status) (s : State) : (setStatus x s).hamu = s.hamu := rfl
@[simp] theorem setStatus_crcval (x : Status) (s : State) : (setStatus x s).crcval = s.crcval := rfl
@[simp] theorem setStatus_csbk (x : Status) (s : State) : (setStatus x s).csbk = s.csbk := rfl
@[simp] theorem setStatus_dh (x : Status) (s : State) : (setStatus x s).dh = s.dh := rfl
@[simp] theorem setStatus_st (x : Status) (s : State) : (setStatus x s).st = s.st := rfl
@[simp] theorem setStatus_obuf (x : Status) (s : State) : (setStatus x s).obuf = s.obuf := rfl
@[simp] theorem setStatus_cfg (x : Status) (s : State) : (setStatus x s).cfg = s.cfg := rfl
@[simp] theorem setStatus_port (x : Status) (s : State) : (setStatus x s).port = s.port := rfl
@[simp] theorem setStatus_response (x : Status) (s : State) : (setStatus x s).response = s.response := rfl

/-! ### setTruth -/

@[simp] theorem setTruth_status (x : Bool) (s : State) : (setTruth x s).status = s.status := rfl
@[simp] theorem setTruth_t (x : Bool) (s : State) : (setTruth x s).t = x := rfl
@[simp] theorem setTruth_olen (x : Bool) (s : State) : (setTruth x s).olen = s.olen := rfl
@[simp] theorem setTruth_hamc (x : Bool) (s : State) : (setTruth x s).hamc = s.hamc := rfl
@[simp] theorem setTruth_hamu (x : Bool) (s : State) : (setTruth x s).hamu = s.hamu := rfl
@[simp] theorem setTruth_crcval (x : Bool) (s : State) : (setTruth x s).crcval = s.crcval := rfl
@[simp] theorem setTruth_csbk (x : Bool) (s : State) : (setTruth x s).csbk = s.csbk := rfl
@[simp] theorem setTruth_dh (x : Bool) (s : State) : (setTruth x s).dh = s.dh := rfl
@[simp] theorem setTruth_st (x : Bool) (s : State) : (setTruth x s).st = s.st := rfl
@[simp] theorem setTruth_obuf (x : Bool) (s : State) : (setTruth x s).obuf = s.obuf := rfl
@[simp] theorem setTruth_cfg (x : Bool) (s : State) : (setTruth x s).cfg = s.cfg := rfl
@[simp] theorem setTruth_port (x : Bool) (s : State) : (setTruth x s).port = s.port := rfl
@[simp] theorem setTruth_response (x : Bool) (s : State) : (setTruth x s).response = s.response := rfl

/-! ### setHam -/

@[simp] theorem setHam_status (x y : BitVec 24) (s : State) : (setHam x y s).status = s.status := rfl
@[simp] theorem setHam_t (x y : BitVec 24) (s : State) : (setHam x y s).t = s.t := rfl
@[simp] theorem setHam_olen (x y : BitVec 24) (s : State) : (setHam x y s).olen = s.olen := rfl
@[simp] theorem setHam_hamc (x y : BitVec 24) (s : State) : (setHam x y s).hamc = x := rfl
@[simp] theorem setHam_hamu (x y : BitVec 24) (s : State) : (setHam x y s).hamu = y := rfl
@[simp] theorem setHam_crcval (x y : BitVec 24) (s : State) : (setHam x y s).crcval = s.crcval := rfl
@[simp] theorem setHam_csbk (x y : BitVec 24) (s : State) : (setHam x y s).csbk = s.csbk := rfl
@[simp] theorem setHam_dh (x y : BitVec 24) (s : State) : (setHam x y s).dh = s.dh := rfl
@[simp] theorem setHam_st (x y : BitVec 24) (s : State) : (setHam x y s).st = s.st := rfl
@[simp] theorem setHam_obuf (x y : BitVec 24) (s : State) : (setHam x y s).obuf = s.obuf := rfl
@[simp] theorem setHam_cfg (x y : BitVec 24) (s : State) : (setHam x y s).cfg = s.cfg := rfl
@[simp] theorem setHam_port (x y : BitVec 24) (s : State) : (setHam x y s).port = s.port := rfl
@[simp] theorem setHam_response (x y : BitVec 24) (s : State) : (setHam x y s).response = s.response := rfl

/-! ### setCrcval -/

@[simp] theorem setCrcval_status (x : Crc) (s : State) : (setCrcval x s).status = s.status := rfl
@[simp] theorem setCrcval_t (x : Crc) (s : State) : (setCrcval x s).t = s.t := rfl
@[simp] theorem setCrcval_olen (x : Crc) (s : State) : (setCrcval x s).olen = s.olen := rfl
@[simp] theorem setCrcval_hamc (x : Crc) (s : State) : (setCrcval x s).hamc = s.hamc := rfl
@[simp] theorem setCrcval_hamu (x : Crc) (s : State) : (setCrcval x s).hamu = s.hamu := rfl
@[simp] theorem setCrcval_crcval (x : Crc) (s : State) : (setCrcval x s).crcval = x := rfl
@[simp] theorem setCrcval_csbk (x : Crc) (s : State) : (setCrcval x s).csbk = s.csbk := rfl
@[simp] theorem setCrcval_dh (x : Crc) (s : State) : (setCrcval x s).dh = s.dh := rfl
@[simp] theorem setCrcval_st (x : Crc) (s : State) : (setCrcval x s).st = s.st := rfl
@[simp] theorem setCrcval_obuf (x : Crc) (s : State) : (setCrcval x s).obuf = s.obuf := rfl
@[simp] theorem setCrcval_cfg (x : Crc) (s : State) : (setCrcval x s).cfg = s.cfg := rfl
@[simp] theorem setCrcval_port (x : Crc) (s : State) : (setCrcval x s).port = s.port := rfl
@[simp] theorem setCrcval_response (x : Crc) (s : State) : (setCrcval x s).response = s.response := rfl

/-! ### setCsbk -/

@[simp] theorem setCsbk_status (x : Csbk) (s : State) : (setCsbk x s).status = s.status := rfl
@[simp] theorem setCsbk_t (x : Csbk) (s : State) : (setCsbk x s).t = s.t := rfl
@[simp] theorem setCsbk_olen (x : Csbk) (s : State) : (setCsbk x s).olen = s.olen := rfl
@[simp] theorem setCsbk_hamc (x : Csbk) (s : State) : (setCsbk x s).hamc = s.hamc := rfl
@[simp] theorem setCsbk_hamu (x : Csbk) (s : State) : (setCsbk x s).hamu = s.hamu := rfl
@[simp] theorem setCsbk_crcval (x : Csbk) (s : State) : (setCsbk x s).crcval = s.crcval := rfl
@[simp] theorem setCsbk_csbk (x : Csbk) (s : State) : (setCsbk x s).csbk = x := rfl
@[simp] theorem setCsbk_dh (x : Csbk) (s : State) : (setCsbk x s).dh = s.dh := rfl
@[simp] theorem setCsbk_st (x : Csbk) (s : State) : (setCsbk x s).st = s.st := rfl
@[simp] theorem setCsbk_obuf (x : Csbk) (s : State) : (setCsbk x s).obuf = s.obuf := rfl
@[simp] theorem setCsbk_cfg (x : Csbk) (s : State) : (setCsbk x s).cfg = s.cfg := rfl
@[simp] theorem setCsbk_port (x : Csbk) (s : State) : (setCsbk x s).port = s.port := rfl
@[simp] theorem setCsbk_response (x : Csbk) (s : State) : (setCsbk x s).response = s.response := rfl

/-! ### setDh -/

@[simp] theorem setDh_status (x : DataHeader) (s : State) : (setDh x s).status = s.status := rfl
@[simp] theorem setDh_t (x : DataHeader) (s : State) : (setDh x s).t = s.t := rfl
@[simp] theorem setDh_olen (x : DataHeader) (s : State) : (setDh x s).olen = s.olen := rfl
@[simp] theorem setDh_hamc (x : DataHeader) (s : State) : (setDh x s).hamc = s.hamc := rfl
@[simp] theorem setDh_hamu (x : DataHeader) (s : State) : (setDh x s).hamu = s.hamu := rfl
@[simp] theorem setDh_crcval (x : DataHeader) (s : State) : (setDh x s).crcval = s.crcval := rfl
@[simp] theorem setDh_csbk (x : DataHeader) (s : State) : (setDh x s).csbk = s.csbk := rfl
@[simp] theorem setDh_dh (x : DataHeader) (s : State) : (setDh x s).dh = x := rfl
@[simp] theorem setDh_st (x : DataHeader) (s : State) : (setDh x s).st = s.st := rfl
@[simp] theorem setDh_obuf (x : DataHeader) (s : State) : (setDh x s).obuf = s.obuf := rfl
@[simp] theorem setDh_cfg (x : DataHeader) (s : State) : (setDh x s).cfg = s.cfg := rfl
@[simp] theorem setDh_port (x : DataHeader) (s : State) : (setDh x s).port = s.port := rfl
@[simp] theorem setDh_response (x : DataHeader) (s : State) : (setDh x s).response = s.response := rfl

/-! ### setSt -/

@[simp] theorem setSt_status (x : SlotType) (s : State) : (setSt x s).status = s.status := rfl
@[simp] theorem setSt_t (x : SlotType) (s : State) : (setSt x s).t = s.t := rfl
@[simp] theorem setSt_olen (x : SlotType) (s : State) : (setSt x s).olen = s.olen := rfl
@[simp] theorem setSt_hamc (x : SlotType) (s : State) : (setSt x s).hamc = s.hamc := rfl
@[simp] theorem setSt_hamu (x : SlotType) (s : State) : (setSt x s).hamu = s.hamu := rfl
@[simp] theorem setSt_crcval (x : SlotType) (s : State) : (setSt x s).crcval = s.crcval := rfl
@[simp] theorem setSt_csbk (x : SlotType) (s : State) : (setSt x s).csbk = s.csbk := rfl
@[simp] theorem setSt_dh (x : SlotType) (s : State) : (setSt x s).dh = s.dh := rfl
@[simp] theorem setSt_st (x : SlotType) (s : State) : (setSt x s).st = x := rfl
@[simp] theorem setSt_obuf (x : SlotType) (s : State) : (setSt x s).obuf = s.obuf := rfl
@[simp] theorem setSt_cfg (x : SlotType) (s : State) : (setSt x s).cfg = s.cfg := rfl
@[simp] theorem setSt_port (x : SlotType) (s : State) : (setSt x s).port = s.port := rfl
@[simp] theorem setSt_response (x : SlotType) (s : State) : (setSt x s).response = s.response := rfl

/-! ### writeOut -/

@[simp] theorem writeOut_status (x : List Byte) (s : State) : (writeOut x s).status = s.status := rfl
@[simp] theorem writeOut_t (x : List Byte) (s : State) : (writeOut x s).t = s.t := rfl
@[simp] theorem writeOut_olen (x : List Byte) (s : State) : (writeOut x s).olen = BitVec.ofNat 9 x.length := rfl
@[simp] theorem writeOut_hamc (x : List Byte) (s : State) : (writeOut x s).hamc = s.hamc := rfl
@[simp] theorem writeOut_hamu (x : List Byte) (s : State) : (writeOut x s).hamu = s.hamu := rfl
@[simp] theorem writeOut_crcval (x : List Byte) (s : State) : (writeOut x s).crcval = s.crcval := rfl
@[simp] theorem writeOut_csbk (x : List Byte) (s : State) : (writeOut x s).csbk = s.csbk := rfl
@[simp] theorem writeOut_dh (x : List Byte) (s : State) : (writeOut x s).dh = s.dh := rfl
@[simp] theorem writeOut_st (x : List Byte) (s : State) : (writeOut x s).st = s.st := rfl
@[simp] theorem writeOut_obuf (x : List Byte) (s : State) : (writeOut x s).obuf = Memory.writeBytes s.obuf 0 x := rfl
@[simp] theorem writeOut_cfg (x : List Byte) (s : State) : (writeOut x s).cfg = s.cfg := rfl
@[simp] theorem writeOut_port (x : List Byte) (s : State) : (writeOut x s).port = s.port := rfl
@[simp] theorem writeOut_response (x : List Byte) (s : State) : (writeOut x s).response = s.response := rfl

/-! ### setPort -/

@[simp] theorem setPort_status (x : List HostEvent) (s : State) : (setPort x s).status = s.status := rfl
@[simp] theorem setPort_t (x : List HostEvent) (s : State) : (setPort x s).t = s.t := rfl
@[simp] theorem setPort_olen (x : List HostEvent) (s : State) : (setPort x s).olen = s.olen := rfl
@[simp] theorem setPort_hamc (x : List HostEvent) (s : State) : (setPort x s).hamc = s.hamc := rfl
@[simp] theorem setPort_hamu (x : List HostEvent) (s : State) : (setPort x s).hamu = s.hamu := rfl
@[simp] theorem setPort_crcval (x : List HostEvent) (s : State) : (setPort x s).crcval = s.crcval := rfl
@[simp] theorem setPort_csbk (x : List HostEvent) (s : State) : (setPort x s).csbk = s.csbk := rfl
@[simp] theorem setPort_dh (x : List HostEvent) (s : State) : (setPort x s).dh = s.dh := rfl
@[simp] theorem setPort_st (x : List HostEvent) (s : State) : (setPort x s).st = s.st := rfl
@[simp] theorem setPort_obuf (x : List HostEvent) (s : State) : (setPort x s).obuf = s.obuf := rfl
@[simp] theorem setPort_cfg (x : List HostEvent) (s : State) : (setPort x s).cfg = s.cfg := rfl
@[simp] theorem setPort_port (x : List HostEvent) (s : State) : (setPort x s).port = x := rfl
@[simp] theorem setPort_response (x : List HostEvent) (s : State) : (setPort x s).response = s.response := rfl

/-! ### setResponse -/

@[simp] theorem setResponse_status (x : Option Response) (s : State) : (setResponse x s).status = s.status := rfl
@[simp] theorem setResponse_t (x : Option Response) (s : State) : (setResponse x s).t = s.t := rfl
@[simp] theorem setResponse_olen (x : Option Response) (s : State) : (setResponse x s).olen = s.olen := rfl
@[simp] theorem setResponse_hamc (x : Option Response) (s : State) : (setResponse x s).hamc = s.hamc := rfl
@[simp] theorem setResponse_hamu (x : Option Response) (s : State) : (setResponse x s).hamu = s.hamu := rfl
@[simp] theorem setResponse_crcval (x : Option Response) (s : State) : (setResponse x s).crcval = s.crcval := rfl
@[simp] theorem setResponse_csbk (x : Option Response) (s : State) : (setResponse x s).csbk = s.csbk := rfl
@[simp] theorem setResponse_dh (x : Option Response) (s : State) : (setResponse x s).dh = s.dh := rfl
@[simp] theorem setResponse_st (x : Option Response) (s : State) : (setResponse x s).st = s.st := rfl
@[simp] theorem setResponse_obuf (x : Option Response) (s : State) : (setResponse x s).obuf = s.obuf := rfl
@[simp] theorem setResponse_cfg (x : Option Response) (s : State) : (setResponse x s).cfg = s.cfg := rfl
@[simp] theorem setResponse_port (x : Option Response) (s : State) : (setResponse x s).port = s.port := rfl
@[simp] theorem setResponse_response (x : Option Response) (s : State) : (setResponse x s).response = x := rfl

/-! ### prologue -/

@[simp] theorem prologue_status (s : State) : (prologue s).status = statusCode .ok := rfl
@[simp] theorem prologue_t (s : State) : (prologue s).t = false := rfl
@[simp] theorem prologue_olen (s : State) : (prologue s).olen = 0 := rfl
@[simp] theorem prologue_hamc (s : State) : (prologue s).hamc = 0 := rfl
@[simp] theorem prologue_hamu (s : State) : (prologue s).hamu = 0 := rfl
@[simp] theorem prologue_crcval (s : State) : (prologue s).crcval = 0 := rfl
@[simp] theorem prologue_csbk (s : State) : (prologue s).csbk = s.csbk := rfl
@[simp] theorem prologue_dh (s : State) : (prologue s).dh = s.dh := rfl
@[simp] theorem prologue_st (s : State) : (prologue s).st = s.st := rfl
@[simp] theorem prologue_obuf (s : State) : (prologue s).obuf = Memory.cleared := rfl
@[simp] theorem prologue_cfg (s : State) : (prologue s).cfg = s.cfg := rfl
@[simp] theorem prologue_port (s : State) : (prologue s).port = s.port := rfl
@[simp] theorem prologue_response (s : State) : (prologue s).response = s.response := rfl

/-! ### prologueCsbk -/

@[simp] theorem prologueCsbk_status (s : State) : (prologueCsbk s).status = statusCode .ok := rfl
@[simp] theorem prologueCsbk_t (s : State) : (prologueCsbk s).t = false := rfl
@[simp] theorem prologueCsbk_olen (s : State) : (prologueCsbk s).olen = 0 := rfl
@[simp] theorem prologueCsbk_hamc (s : State) : (prologueCsbk s).hamc = 0 := rfl
@[simp] theorem prologueCsbk_hamu (s : State) : (prologueCsbk s).hamu = 0 := rfl
@[simp] theorem prologueCsbk_crcval (s : State) : (prologueCsbk s).crcval = 0 := rfl
@[simp] theorem prologueCsbk_csbk (s : State) : (prologueCsbk s).csbk = Csbk.zero := rfl
@[simp] theorem prologueCsbk_dh (s : State) : (prologueCsbk s).dh = s.dh := rfl
@[simp] theorem prologueCsbk_st (s : State) : (prologueCsbk s).st = s.st := rfl
@[simp] theorem prologueCsbk_obuf (s : State) : (prologueCsbk s).obuf = Memory.cleared := rfl
@[simp] theorem prologueCsbk_cfg (s : State) : (prologueCsbk s).cfg = s.cfg := rfl
@[simp] theorem prologueCsbk_port (s : State) : (prologueCsbk s).port = s.port := rfl
@[simp] theorem prologueCsbk_response (s : State) : (prologueCsbk s).response = s.response := rfl

/-! ### prologueDh -/

@[simp] theorem prologueDh_status (s : State) : (prologueDh s).status = statusCode .ok := rfl
@[simp] theorem prologueDh_t (s : State) : (prologueDh s).t = false := rfl
@[simp] theorem prologueDh_olen (s : State) : (prologueDh s).olen = 0 := rfl
@[simp] theorem prologueDh_hamc (s : State) : (prologueDh s).hamc = 0 := rfl
@[simp] theorem prologueDh_hamu (s : State) : (prologueDh s).hamu = 0 := rfl
@[simp] theorem prologueDh_crcval (s : State) : (prologueDh s).crcval = 0 := rfl
@[simp] theorem prologueDh_csbk (s : State) : (prologueDh s).csbk = s.csbk := rfl
@[simp] theorem prologueDh_dh (s : State) : (prologueDh s).dh = DataHeader.zero := rfl
@[simp] theorem prologueDh_st (s : State) : (prologueDh s).st = s.st := rfl
@[simp] theorem prologueDh_obuf (s : State) : (prologueDh s).obuf = Memory.cleared := rfl
@[simp] theorem prologueDh_cfg (s : State) : (prologueDh s).cfg = s.cfg := rfl
@[simp] theorem prologueDh_port (s : State) : (prologueDh s).port = s.port := rfl
@[simp] theorem prologueDh_response (s : State) : (prologueDh s).response = s.response := rfl

/-! ### prologueSt -/

@[simp] theorem prologueSt_status (s : State) : (prologueSt s).status = statusCode .ok := rfl
@[simp] theorem prologueSt_t (s : State) : (prologueSt s).t = false := rfl
@[simp] theorem prologueSt_olen (s : State) : (prologueSt s).olen = 0 := rfl
@[simp] theorem prologueSt_hamc (s : State) : (prologueSt s).hamc = 0 := rfl
@[simp] theorem prologueSt_hamu (s : State) : (prologueSt s).hamu = 0 := rfl
@[simp] theorem prologueSt_crcval (s : State) : (prologueSt s).crcval = 0 := rfl
@[simp] theorem prologueSt_csbk (s : State) : (prologueSt s).csbk = s.csbk := rfl
@[simp] theorem prologueSt_dh (s : State) : (prologueSt s).dh = s.dh := rfl
@[simp] theorem prologueSt_st (s : State) : (prologueSt s).st = SlotType.zero := rfl
@[simp] theorem prologueSt_obuf (s : State) : (prologueSt s).obuf = Memory.cleared := rfl
@[simp] theorem prologueSt_cfg (s : State) : (prologueSt s).cfg = s.cfg := rfl
@[simp] theorem prologueSt_port (s : State) : (prologueSt s).port = s.port := rfl
@[simp] theorem prologueSt_response (s : State) : (prologueSt s).response = s.response := rfl

/-! ### resetBlock -/

@[simp] theorem resetBlock_status (s : State) : (resetBlock s).status = 0x00 := rfl
@[simp] theorem resetBlock_t (s : State) : (resetBlock s).t = false := rfl
@[simp] theorem resetBlock_olen (s : State) : (resetBlock s).olen = 0 := rfl
@[simp] theorem resetBlock_hamc (s : State) : (resetBlock s).hamc = 0 := rfl
@[simp] theorem resetBlock_hamu (s : State) : (resetBlock s).hamu = 0 := rfl
@[simp] theorem resetBlock_crcval (s : State) : (resetBlock s).crcval = 0 := rfl
@[simp] theorem resetBlock_csbk (s : State) : (resetBlock s).csbk = Csbk.zero := rfl
@[simp] theorem resetBlock_dh (s : State) : (resetBlock s).dh = DataHeader.zero := rfl
@[simp] theorem resetBlock_st (s : State) : (resetBlock s).st = SlotType.zero := rfl
@[simp] theorem resetBlock_obuf (s : State) : (resetBlock s).obuf = [] := rfl
@[simp] theorem resetBlock_cfg (s : State) : (resetBlock s).cfg = s.cfg := rfl
@[simp] theorem resetBlock_port (s : State) : (resetBlock s).port = s.port := rfl
@[simp] theorem resetBlock_response (s : State) : (resetBlock s).response = none := rfl

end Sys2Proof.Machine
end

