-- ==== Sys2Proof/Laws/Ops.lean ====
section
/-! SUPPORT. One lemma per shared operation of Machine/Ops.lean and Machine/Port.lean: what it leads to, said once. -/

namespace Sys2Proof.Machine

@[simp] theorem raise_eq (st : Status) (s : State) : raise st s = .next (setStatus st s) := rfl

@[simp] theorem complete_eq (s : State) : complete s = .next (setStatus .ok s) := rfl

@[simp] theorem refuseCommand_eq (s : State) :
    refuseCommand s = .next (setStatus .illegalCommand (prologue s)) := rfl

theorem emit_of_le {bytes : List Byte} (h : bytes.length ≤ obufSize) (s : State) :
    emit bytes s = .next (setStatus .ok (writeOut bytes s)) := by
  simp [emit, h]

/-- If `emit` answers a next state, the output fitted and stands in `OBUF`, and `STATUS` is `OK`. -/
theorem emit_next {bytes : List Byte} {s t : State} (h : emit bytes s = .next t) :
    bytes.length ≤ obufSize ∧ t = setStatus .ok (writeOut bytes s) := by
  unfold emit at h
  split at h
  · rename_i hle
    exact ⟨hle, (by simpa using h.symm)⟩
  · cases h

@[simp] theorem requireLen_of_eq {n : Nat} {data : List Byte} (h : data.length = n) (s : State) (r : Result) :
    requireLen n data s r = r := by simp [requireLen, h]

@[simp] theorem requireLen_of_ne {n : Nat} {data : List Byte} (h : data.length ≠ n) (s : State) (r : Result) :
    requireLen n data s r = .next (setStatus .invalidLength s) := by simp [requireLen, h]

@[simp] theorem requireMinLen_of_le {n : Nat} {data : List Byte} (h : n ≤ data.length) (s : State) (r : Result) :
    requireMinLen n data s r = r := by simp [requireMinLen, h]

@[simp] theorem requireMinLen_of_lt {n : Nat} {data : List Byte} (h : data.length < n) (s : State) (r : Result) :
    requireMinLen n data s r = .next (setStatus .dataTooShort s) := by
  simp [requireMinLen, show ¬ n ≤ data.length by omega]

/-- What an exact length contract can lead to: the body, or the failure with nothing else done. -/
theorem requireLen_next {n : Nat} {data : List Byte} {s t : State} {r : Result}
    (h : requireLen n data s r = .next t) :
    (data.length = n ∧ r = .next t) ∨ (data.length ≠ n ∧ t = setStatus .invalidLength s) := by
  by_cases hn : data.length = n
  · exact .inl ⟨hn, by simpa [hn] using h⟩
  · rw [requireLen_of_ne hn] at h
    exact .inr ⟨hn, by simpa using h.symm⟩

/-- What a minimum length contract can lead to: the body, or the failure with nothing else done. -/
theorem requireMinLen_next {n : Nat} {data : List Byte} {s t : State} {r : Result}
    (h : requireMinLen n data s r = .next t) :
    (n ≤ data.length ∧ r = .next t) ∨ (data.length < n ∧ t = setStatus .dataTooShort s) := by
  by_cases hn : n ≤ data.length
  · exact .inl ⟨hn, by simpa [hn] using h⟩
  · have hn' : data.length < n := by omega
    rw [requireMinLen_of_lt hn'] at h
    exact .inr ⟨hn', by simpa using h.symm⟩

/-- A transaction ends in a next state exactly when the command does, with its response recorded. -/
theorem respond_next {r : Result} {t : State} (h : respond r = .next t) :
    ∃ s, r = .next s ∧ t = setResponse (some (commandResponse s)) s := by
  cases r with
  | next s => exact ⟨s, rfl, by simpa [respond] using h.symm⟩
  | fault f => cases h
  | refused f => cases h

end Sys2Proof.Machine
end

