-- ==== Sys2Proof/Laws/Codecs.lean ====
section
/-! SUPPORT. The lengths of what the codecs give, and what the class masks hold: the side conditions of every command. -/

namespace Sys2Proof.Machine

/-! ### CRC -/

@[simp] theorem length_crcTrailer (d : List Byte) : (crcTrailer d).length = 2 := rfl

@[simp] theorem length_crcAppend (d : List Byte) : (crcAppend d).length = d.length + 2 := by
  simp [crcAppend]

/-- A running register composes over concatenation (40_crc.md R102). -/
theorem crcRun_append (r : Crc) (a b : List Byte) : crcRun r (a ++ b) = crcRun (crcRun r a) b := by
  simp [crcRun]

/-! ### BPTC -/

@[simp] theorem length_extract (b : List Byte) : (extract b).length = 196 := by
  simp [extract, bptcBits]

@[simp] theorem length_permute (k : Nat) (v : List Bool) : (permute k v).length = 196 := by
  simp [permute, bptcBits]

@[simp] theorem length_deint (v : List Bool) : (deint v).length = 196 := length_permute _ _

@[simp] theorem length_intlv (v : List Bool) : (intlv v).length = 196 := length_permute _ _

theorem getD_permute (k : Nat) (v : List Bool) {i : Nat} (h : i < 196) :
    (permute k v).getD i false = v.getD (i * k % 196) false := by
  simp [permute, bptcBits, h]

@[simp] theorem length_hamFix (g : List Bool) : (hamFix g).length = g.length := by
  unfold hamFix
  dsimp only
  split <;> simp

@[simp] theorem length_groups (d : List Bool) : (groups d).length = 24 := by simp [groups]

@[simp] theorem length_groupClasses (d : List Bool) : (groupClasses d).length = 24 := by
  simp [groupClasses]

theorem length_group {d : List Bool} {k : Nat} (h : 8 * k + 8 ≤ d.length) : (group d k).length = 8 := by
  simp [group]; omega

theorem length_hamFixAll {d : List Bool} (h : d.length = 196) : (hamFixAll d).length = 196 := by
  have h8 : ∀ n ∈ (groups d).map (fun g => (hamFix g).length), n = 8 := by
    intro n hn
    simp only [groups, List.map_map, List.mem_map, List.mem_range, Function.comp] at hn
    obtain ⟨k, hk, rfl⟩ := hn
    rw [length_hamFix, length_group (by omega)]
  have hsum : ((groups d).map (fun g => (hamFix g).length)).sum = 192 := by
    rw [List.eq_replicate_of_mem h8]; simp
  rw [hamFixAll, List.length_append, List.length_flatMap, hsum, List.length_drop, h]

/-- The payload is 12 bytes on any input (00_scope.md R5, `BPTC_PAYLOAD`). -/
@[simp] theorem length_payload (b : List Byte) : (bptcDecode b).payload.length = 12 := by
  have h := length_hamFixAll (d := deint (extract b)) (by simp)
  simp [bptcDecode, h]

theorem getLsbD_classMask (c : HamClass) (cs : List HamClass) (k : Nat) :
    (classMask c cs).getLsbD k = (decide (k < 24) && cs[k]? == some c) := by
  rw [classMask, getLsbD_ofBitsLsb]

/-- A group is of one class: no bit is set in both masks (41_bptc.md R130, `HAMC & HAMU = 0`). -/
theorem classMask_disjoint (cs : List HamClass) :
    classMask .corrected cs &&& classMask .uncorrectable cs = 0#24 := by
  apply BitVec.eq_of_getLsbD_eq
  intro k _
  rw [BitVec.getLsbD_and, getLsbD_classMask, getLsbD_classMask]
  cases h : cs[k]? with
  | none => simp
  | some c => cases c <;> simp

/-! ### Reed-Solomon, Golay, CSBK, DataHeader -/

@[simp] theorem length_rsEncode (m : List Byte) : (rsEncode m).length = 3 := rfl

theorem length_foldl_set {α : Type} (l : List Nat) (p : Nat → Nat) (f : Nat → α) (v : List α) :
    (l.foldl (fun v k => v.set (p k) (f k)) v).length = v.length := by
  induction l generalizing v with
  | nil => rfl
  | cons a l ih => simp [ih]

@[simp] theorem length_slotPut (c : Config) (f : List Byte) (w : Codeword) :
    (slotPut c f w).length = 21 := by
  simp [slotPut, length_foldl_set]

@[simp] theorem length_padOrTruncate (d : List Byte) : (padOrTruncate d).length = 33 := by
  simp [padOrTruncate, bptcBytes]

/-- Every index of the bit map is a frame bit (43_golay.md R173). -/
theorem slotPos_lt (c : Config) (k : Nat) : slotPos c k < 168 := by
  unfold slotPos
  rw [List.getD_eq_getElem?_getD, List.getElem?_map]
  cases c.slotBitPos.toList[k]? with
  | none => simp
  | some p => exact p.isLt

end Sys2Proof.Machine
end

