-- ==== Sys2Proof/Laws/Exec.lean ====
section
/-! SUPPORT. What any command can do, said once (`exec_left`): a next state is one update of the state before it, by
a result whose parts obey the rules of 10_state.md R27, R28 and 60_exceptions.md R232. -/

namespace Sys2Proof.Machine

/-- What a command other than `NOP` leaves. -/
structure Left where
  status : Status
  truth : Bool
  hamc : BitVec 24
  hamu : BitVec 24
  crcval : Crc
  out : List Byte
  csbk : Csbk
  dh : DataHeader
  st : SlotType

/-- The state with these results in place of the old ones. -/
def Left.apply (l : Left) (s : State) : State :=
  { s with status := statusCode l.status, t := l.truth, olen := BitVec.ofNat 9 l.out.length, hamc := l.hamc,
           hamu := l.hamu, crcval := l.crcval, csbk := l.csbk, dh := l.dh, st := l.st,
           obuf := Memory.writeBytes Memory.cleared 0 l.out }

@[simp] theorem Left.apply_status (l : Left) (s : State) : (l.apply s).status = statusCode l.status := rfl
@[simp] theorem Left.apply_t (l : Left) (s : State) : (l.apply s).t = l.truth := rfl
@[simp] theorem Left.apply_olen (l : Left) (s : State) :
    (l.apply s).olen = BitVec.ofNat 9 l.out.length := rfl
@[simp] theorem Left.apply_hamc (l : Left) (s : State) : (l.apply s).hamc = l.hamc := rfl
@[simp] theorem Left.apply_hamu (l : Left) (s : State) : (l.apply s).hamu = l.hamu := rfl
@[simp] theorem Left.apply_crcval (l : Left) (s : State) : (l.apply s).crcval = l.crcval := rfl
@[simp] theorem Left.apply_csbk (l : Left) (s : State) : (l.apply s).csbk = l.csbk := rfl
@[simp] theorem Left.apply_dh (l : Left) (s : State) : (l.apply s).dh = l.dh := rfl
@[simp] theorem Left.apply_st (l : Left) (s : State) : (l.apply s).st = l.st := rfl
@[simp] theorem Left.apply_obuf (l : Left) (s : State) :
    (l.apply s).obuf = Memory.writeBytes Memory.cleared 0 l.out := rfl
@[simp] theorem Left.apply_cfg (l : Left) (s : State) : (l.apply s).cfg = s.cfg := rfl
@[simp] theorem Left.apply_port (l : Left) (s : State) : (l.apply s).port = s.port := rfl
@[simp] theorem Left.apply_response (l : Left) (s : State) : (l.apply s).response = s.response := rfl

/-- The rules a result obeys, whatever the command: it fits in `OBUF`, a failure or a truth value comes with no
output, no group is both corrected and uncorrectable, the groups of other units persist, and a failure
leaves the command's own group zero. -/
structure Left.Fits (l : Left) (i : Instr) (s : State) : Prop where
  out_le : l.out.length ≤ 257
  failure_empty : l.status ≠ .ok → l.truth = false ∧ l.out = []
  truth_empty : l.truth = true → l.out = []
  ham_disjoint : l.hamc &&& l.hamu = 0
  csbk_other : i.opc ≠ 0x40 → l.csbk = s.csbk
  dh_other : i.opc ≠ 0x41 → l.dh = s.dh
  st_other : i.opc ≠ 0x30 → l.st = s.st
  csbk_failed : i.opc = 0x40 → l.status ≠ .ok → l.csbk = .zero
  dh_failed : i.opc = 0x41 → l.status ≠ .ok → l.dh = .zero
  st_failed : i.opc = 0x30 → l.status ≠ .ok → l.st = .zero

/-- What an output with no unit group of its own leaves. -/
def leftOut (s : State) (hamc hamu : BitVec 24) (crcval : Crc) (out : List Byte) : Left :=
  ⟨.ok, false, hamc, hamu, crcval, out, s.csbk, s.dh, s.st⟩

/-- What a truth result leaves. -/
def leftTruth (s : State) (truth : Bool) (crcval : Crc) : Left :=
  ⟨.ok, truth, 0, 0, crcval, [], s.csbk, s.dh, s.st⟩

/-- What a broken length contract of a command with no group of its own leaves. -/
def leftFail (s : State) (st : Status) : Left :=
  ⟨st, false, 0, 0, 0, [], s.csbk, s.dh, s.st⟩

theorem leftOut_fits {s : State} {i : Instr} {hamc hamu : BitVec 24} {crcval : Crc} {out : List Byte}
    (ho : out.length ≤ obufSize) (hd : hamc &&& hamu = 0)
    (hi : i.opc ≠ 0x40 ∧ i.opc ≠ 0x41 ∧ i.opc ≠ 0x30) :
    (leftOut s hamc hamu crcval out).Fits i s :=
  ⟨ho, by simp [leftOut], by simp [leftOut], hd, fun _ => rfl, fun _ => rfl, fun _ => rfl,
    fun h => absurd h hi.1, fun h => absurd h hi.2.1, fun h => absurd h hi.2.2⟩

theorem leftTruth_fits {s : State} {i : Instr} {truth : Bool} {crcval : Crc}
    (hi : i.opc ≠ 0x40 ∧ i.opc ≠ 0x41 ∧ i.opc ≠ 0x30) : (leftTruth s truth crcval).Fits i s :=
  ⟨by simp [leftTruth], by simp [leftTruth], by simp [leftTruth], by simp [leftTruth], fun _ => rfl,
    fun _ => rfl, fun _ => rfl, fun h => absurd h hi.1, fun h => absurd h hi.2.1, fun h => absurd h hi.2.2⟩

theorem leftFail_fits {s : State} {i : Instr} {st : Status}
    (hi : i.opc ≠ 0x40 ∧ i.opc ≠ 0x41 ∧ i.opc ≠ 0x30) : (leftFail s st).Fits i s :=
  ⟨by simp [leftFail], by simp [leftFail], by simp [leftFail], by simp [leftFail], fun _ => rfl,
    fun _ => rfl, fun _ => rfl, fun h => absurd h hi.1, fun h => absurd h hi.2.1, fun h => absurd h hi.2.2⟩

/-- A command that checks an exact length and then emits. -/
theorem left_of_lenEmit {s t : State} {i : Instr} {n : Nat} {data out : List Byte} {hamc hamu : BitVec 24}
    (hd : hamc &&& hamu = 0) (hi : i.opc ≠ 0x40 ∧ i.opc ≠ 0x41 ∧ i.opc ≠ 0x30)
    (h : requireLen n data (prologue s) (emit out (setHam hamc hamu (prologue s))) = .next t) :
    ∃ l : Left, t = l.apply s ∧ l.Fits i s := by
  rcases requireLen_next h with ⟨_, h⟩ | ⟨_, rfl⟩
  · obtain ⟨ho, rfl⟩ := emit_next h
    exact ⟨leftOut s hamc hamu 0 out, rfl, leftOut_fits ho hd hi⟩
  · exact ⟨leftFail s .invalidLength, rfl, leftFail_fits hi⟩

/-- What a command other than `NOP` can lead to. -/
theorem exec_left {i : Instr} {s t : State} (hi : i ≠ .nop) (h : exec i s = .next t) :
    ∃ l : Left, t = l.apply s ∧ l.Fits i s := by
  cases i with
  | nop => exact absurd rfl hi
  | crcAppend data =>
    obtain ⟨ho, rfl⟩ := emit_next h
    exact ⟨leftOut s 0 0 (crc16 data) _, rfl, leftOut_fits ho (by simp) (by simp [Instr.opc])⟩
  | crcVerify data =>
    rcases requireMinLen_next h with ⟨_, h⟩ | ⟨_, rfl⟩
    · cases h
      exact ⟨leftTruth s (crcVerify data) (crc16 (crcCovered data)), rfl, leftTruth_fits (by simp [Instr.opc])⟩
    · exact ⟨leftFail s .dataTooShort, rfl, leftFail_fits (by simp [Instr.opc])⟩
  | bptcExtract data => exact left_of_lenEmit (hamc := 0) (hamu := 0) (by simp) (by simp [Instr.opc]) h
  | bptcDeint data => exact left_of_lenEmit (hamc := 0) (hamu := 0) (by simp) (by simp [Instr.opc]) h
  | bptcIntlv data => exact left_of_lenEmit (hamc := 0) (hamu := 0) (by simp) (by simp [Instr.opc]) h
  | bptcHam8 data => exact left_of_lenEmit (classMask_disjoint _) (by simp [Instr.opc]) h
  | bptcDecode data => exact left_of_lenEmit (classMask_disjoint _) (by simp [Instr.opc]) h
  | gfMul data => exact left_of_lenEmit (hamc := 0) (hamu := 0) (by simp) (by simp [Instr.opc]) h
  | rsEncode data => exact left_of_lenEmit (hamc := 0) (hamu := 0) (by simp) (by simp [Instr.opc]) h
  | golayEncode cc dt data =>
    exact left_of_lenEmit (i := .golayEncode cc dt data) (hamc := 0) (hamu := 0) (by simp)
      (by simp [Instr.opc]) h
  | rsCheck data =>
    rcases requireLen_next h with ⟨_, h⟩ | ⟨_, rfl⟩
    · cases h
      exact ⟨leftTruth s (rsCheck data) 0, rfl, leftTruth_fits (by simp [Instr.opc])⟩
    · exact ⟨leftFail s .invalidLength, rfl, leftFail_fits (by simp [Instr.opc])⟩
  | golayDecode data =>
    rcases requireLen_next h with ⟨_, h⟩ | ⟨_, rfl⟩
    · split at h
      · cases h
        exact ⟨{ leftFail s .fecUncorrectable with st := .zero }, rfl, by constructor <;> simp [leftFail, Instr.opc]⟩
      · obtain ⟨ho, rfl⟩ := emit_next h
        exact ⟨{ leftOut s 0 0 0 _ with st := slotTypeOf _ _ }, rfl, by constructor <;> simp [leftOut, Instr.opc]⟩
    · exact ⟨{ leftFail s .invalidLength with st := .zero }, rfl, by constructor <;> simp [leftFail, Instr.opc]⟩
  | csbkPut data =>
    rcases requireMinLen_next h with ⟨_, h⟩ | ⟨_, rfl⟩
    · split at h
      · cases h
        exact ⟨{ leftFail s .invalidWakeup with csbk := .zero }, rfl, by constructor <;> simp [leftFail, Instr.opc]⟩
      · have hd := classMask_disjoint (groupClasses (deint (extract (padOrTruncate data))))
        split at h
        · cases h
          exact ⟨⟨.invalidCRC, false, _, _, _, [], .zero, s.dh, s.st⟩, rfl, by
            constructor <;> first | exact hd | simp [Instr.opc]⟩
        · split at h
          · cases h
            exact ⟨⟨.unsupportedOpcode, false, _, _, _, [], .zero, s.dh, s.st⟩, rfl, by
              constructor <;> first | exact hd | simp [Instr.opc]⟩
          · obtain ⟨ho, rfl⟩ := emit_next h
            exact ⟨⟨.ok, false, _, _, _, crcAppend _, _, s.dh, s.st⟩, rfl, by
              constructor <;> first | exact hd | exact ho | simp [Instr.opc]⟩
    · exact ⟨{ leftFail s .dataTooShort with csbk := .zero }, rfl, by constructor <;> simp [leftFail, Instr.opc]⟩
  | dhPut data =>
    rcases requireMinLen_next h with ⟨_, h⟩ | ⟨_, rfl⟩
    · split at h
      · cases h
        exact ⟨⟨.invalidCRC, false, 0, 0, _, [], s.csbk, .zero, s.st⟩, rfl, by
          constructor <;> simp [Instr.opc]⟩
      · obtain ⟨ho, rfl⟩ := emit_next h
        exact ⟨⟨.ok, false, 0, 0, _, _, s.csbk, dhFields _, s.st⟩, rfl, by
          constructor <;> first | exact ho | simp [Instr.opc]⟩
    · exact ⟨{ leftFail s .dataTooShort with dh := .zero }, rfl, by constructor <;> simp [leftFail, Instr.opc]⟩

end Sys2Proof.Machine
end

