-- ==== Sys2Proof/Laws/PerInstr.lean ====
section
/-! SUPPORT. Statements for all commands, one lemma per constructor. Framing: the encoding is three header bytes and
the data, and its third byte tells the length (30_encoding.md R70, R71). -/

namespace Sys2Proof.Laws.Framing

/-- An encoded command is `3 + LEN` bytes, of which byte 2 is `LEN`, and at most 258 (30_encoding.md R70, R71). -/
def Statement (i : Instr) : Prop :=
  i.wf → ∃ opc arg len : Byte, encode i = opc :: arg :: len :: i.data ∧ len.toNat = i.data.length ∧
    (encode i).length = 3 + len.toNat ∧ (encode i).length ≤ 258

/-- The length byte of a well-formed command is its length. -/
theorem of_wf (i : Instr) : Statement i := by
  intro h
  have hl : i.data.length ≤ 255 := h
  have hn : (BitVec.ofNat 8 i.data.length).toNat = i.data.length := by
    rw [BitVec.toNat_ofNat]; omega
  refine ⟨i.opc, i.arg, BitVec.ofNat 8 i.data.length, rfl, hn, ?_, ?_⟩
  · rw [hn]; simp [encode]; omega
  · simp [encode]; omega

theorem nop : Statement .nop := of_wf _
theorem crcAppend (data : List Byte) : Statement (.crcAppend data) := of_wf _
theorem crcVerify (data : List Byte) : Statement (.crcVerify data) := of_wf _
theorem bptcExtract (data : List Byte) : Statement (.bptcExtract data) := of_wf _
theorem bptcDeint (data : List Byte) : Statement (.bptcDeint data) := of_wf _
theorem bptcIntlv (data : List Byte) : Statement (.bptcIntlv data) := of_wf _
theorem bptcHam8 (data : List Byte) : Statement (.bptcHam8 data) := of_wf _
theorem bptcDecode (data : List Byte) : Statement (.bptcDecode data) := of_wf _
theorem gfMul (data : List Byte) : Statement (.gfMul data) := of_wf _
theorem rsEncode (data : List Byte) : Statement (.rsEncode data) := of_wf _
theorem rsCheck (data : List Byte) : Statement (.rsCheck data) := of_wf _
theorem golayDecode (data : List Byte) : Statement (.golayDecode data) := of_wf _
theorem golayEncode (colorCode dataType : BitVec 4) (data : List Byte) :
    Statement (.golayEncode colorCode dataType data) := of_wf _
theorem csbkPut (data : List Byte) : Statement (.csbkPut data) := of_wf _
theorem dhPut (data : List Byte) : Statement (.dhPut data) := of_wf _

end Sys2Proof.Laws.Framing
end

