-- ==== Sys2Proof/Laws/Step.lean ====
section
/-! SUPPORT. What a step can do, said once (`step_next`), that a result of `exec_left` is what `Leaves` says,
and what a step of one block of several does. -/

namespace Sys2Proof.Machine

/-- A step that answers a next state: nothing was offered; or a command ran; or a refused command left
`IllegalCommand`; or a host read gave its response; or the block was reset. -/
theorem step_next {s t : State} (h : step s = .next t) :
    (s.port = [] ∧ t = s) ∨
    ∃ e rest, s.port = e :: rest ∧
      ((∃ bytes i u, e = .command bytes ∧ decode bytes = .ok i ∧ exec i (setPort rest s) = .next u ∧
          t = setResponse (some (commandResponse u)) u) ∨
       (∃ bytes u, e = .command bytes ∧ u = setStatus .illegalCommand (prologue (setPort rest s)) ∧
          t = setResponse (some (commandResponse u)) u) ∨
       (∃ r, t = setResponse r (setPort rest s)) ∨
       (e = .reset ∧ t = resetBlock (setPort rest s))) := by
  unfold step servePort at h
  split at h
  · rename_i hp
    cases h
    exact .inl ⟨hp, rfl⟩
  · rename_i e rest hp
    refine .inr ⟨e, rest, hp, ?_⟩
    cases e with
    | command bytes =>
      simp only [serve, issueCommand] at h
      split at h
      · obtain ⟨u, hu, rfl⟩ := respond_next h
        exact .inl ⟨_, _, u, rfl, by assumption, hu, rfl⟩
      all_goals first
        | (obtain ⟨u, hu, rfl⟩ := respond_next h
           cases hu
           exact .inr (.inl ⟨_, _, rfl, rfl, rfl⟩))
        | cases h
    | readReg n =>
      simp only [serve] at h
      split at h <;> cases h
      exact .inr (.inr (.inl ⟨_, rfl⟩))
    | readObuf n =>
      simp only [serve] at h
      split at h <;> cases h
      exact .inr (.inr (.inl ⟨_, rfl⟩))
    | reset =>
      cases h
      exact .inr (.inr (.inr ⟨rfl, rfl⟩))

/-- The result of a command, read off its `Left`. -/
theorem Left.leaves {l : Left} (h : l.out.length ≤ 257) (s : State) :
    Leaves s (l.apply s) (statusCode l.status) l.truth l.hamc l.hamu l.crcval l.out where
  status_eq := rfl
  t_eq := rfl
  olen_eq := by simp; omega
  hamc_eq := rfl
  hamu_eq := rfl
  crcval_eq := rfl
  obuf_eq := fun a => read_writeBytes_cleared _ a
  cfg_eq := rfl
  port_eq := rfl
  response_eq := rfl

/-- A block of several steps by its own state; the others stay. -/
theorem stepInstance_of_next {blocks : List State} {k : Nat} {s t : State} (hk : blocks[k]? = some s)
    (h : step s = .next t) : stepInstance k blocks = .next (blocks.set k t) := by
  simp [stepInstance, hk, h]

/-- A block of several whose step is refused. -/
theorem stepInstance_of_refused {blocks : List State} {k : Nat} {s : State} {r : Refusal}
    (hk : blocks[k]? = some s) (h : step s = .refused r) : stepInstance k blocks = .refused r := by
  simp [stepInstance, hk, h]

end Sys2Proof.Machine
end

