-- ==== Sys2Proof/Tests/Slice0.lean ====
section
/-! SUPPORT. Tests of the model. Every expected value is the spec's: the printed tables, the worked examples of the rules
and the vectors of 95_test_vectors.md (named V<k>). Then a witness for every statement that has hypotheses. -/

namespace Sys2Proof.Tests.Slice0

open Sys2Proof Sys2Proof.Machine

/-- The reset state with these events on the port. -/
def offered (events : List HostEvent) : State := { State.reset with port := events }

/-- The default configuration but for `OPC_UUVREQ` (V5.7). -/
def withUuvreq (o : BitVec 6) (s : State) : State := { s with cfg := { defaultConfig with opcUuvreq := o } }

/-- The state after one step, the start state where it stops. -/
def after (s : State) : State :=
  match step s with
  | .next t => t
  | .fault _ => s
  | .refused _ => s

/-- The state after one command from reset. -/
def ran (bytes : List Byte) : State := after (offered [.command bytes])

/-- The state `exec` leaves, the start state where it stops. -/
def left (i : Instr) (s : State) : State :=
  match exec i s with
  | .next t => t
  | .fault _ => s
  | .refused _ => s

/-- `exec` answers a next state. -/
def runs (i : Instr) (s : State) : Bool :=
  match exec i s with
  | .next _ => true
  | .fault _ => false
  | .refused _ => false

theorem exec_of_runs {i : Instr} {s : State} (h : runs i s = true) : exec i s = .next (left i s) := by
  unfold runs at h
  unfold left
  split at h <;> simp_all

/-- `OBUF[0..OLEN-1]`. -/
def outOf (s : State) : List Byte := Memory.firstBytes s.obuf s.olen.toNat

/-- Frame A of 95_test_vectors.md section 2.5. -/
def frameA : List Byte :=
  [0x00, 0x03, 0x06, 0x00, 0x34, 0x00, 0x60, 0x00, 0xA0, 0x01, 0x20, 0x00, 0xC0, 0x00, 0x00, 0x04, 0x00, 0x0C, 0x00,
    0x84, 0x01, 0x20, 0x02, 0x30, 0x04, 0x00, 0x00, 0x00, 0x00, 0x00, 0x00, 0x00, 0x00]

/-- The frame of V5.7. -/
def frameU : List Byte :=
  [0x00, 0x03, 0x02, 0x00, 0x18, 0x00, 0x48, 0x00, 0x60, 0x01, 0xE0, 0x06, 0x00, 0x00, 0x80, 0x3C, 0x00, 0x08, 0x00,
    0xC8, 0x00, 0x08, 0x00, 0x70, 0x04, 0x80, 0x00, 0x00, 0x00, 0x00, 0x00, 0x00, 0x00]

/-- The block of V6.1. -/
def headerBlock : List Byte := [0xC0, 0x00, 0x00, 0x0C, 0x30, 0x01, 0x09, 0x32, 0x00, 0x00, 0x07, 0xEC]

/-! ### Well-formedness -/

/-- MAXLEN = 255 (00_scope.md R6). -/
theorem test_wf_refuses_256_bytes : ¬ (Instr.crcAppend (List.replicate 256 0x00)).wf := by decide +kernel
theorem test_wf_accepts_255_bytes : (Instr.crcAppend (List.replicate 255 0x00)).wf := by decide +kernel
theorem test_wf_refuses_long_golayEncode : ¬ (Instr.golayEncode 1 3 (List.replicate 256 0x00)).wf := by decide +kernel

/-! ### Decoding: one word per row of 30_encoding.md R73, the header bit by bit as OPC, ARG, LEN -/

theorem test_decode_nop : decodeTableWord 24 0b00000000_00000000_00000000 = some .nop := by decide
theorem test_decode_crcAppend :
    decodeTableWord 24 0b00000001_00000000_00000001 = some (.crcAppend [0x00]) := by decide
theorem test_decode_crcVerify :
    decodeTableWord 24 0b00000010_00000000_00000010 = some (.crcVerify [0x00, 0x00]) := by decide
theorem test_decode_bptcExtract :
    decodeTableWord 24 0b00010000_00000000_00000000 = some (.bptcExtract []) := by decide
theorem test_decode_bptcDeint :
    decodeTableWord 24 0b00010001_00000000_00000001 = some (.bptcDeint [0x00]) := by decide
theorem test_decode_bptcIntlv :
    decodeTableWord 24 0b00010010_00000000_00000000 = some (.bptcIntlv []) := by decide
theorem test_decode_bptcHam8 :
    decodeTableWord 24 0b00010011_00000000_00000001 = some (.bptcHam8 [0x00]) := by decide
theorem test_decode_bptcDecode :
    decodeTableWord 24 0b00010100_00000000_00000000 = some (.bptcDecode []) := by decide
theorem test_decode_gfMul : decode [0x20, 0x00, 0x02, 0x53, 0xCA] = .ok (.gfMul [0x53, 0xCA]) := by decide
theorem test_decode_rsEncode :
    decodeTableWord 24 0b00100001_00000000_00000001 = some (.rsEncode [0x00]) := by decide
theorem test_decode_rsCheck :
    decodeTableWord 24 0b00100010_00000000_00000000 = some (.rsCheck []) := by decide
theorem test_decode_golayDecode :
    decodeTableWord 24 0b00110000_00000000_00000001 = some (.golayDecode [0x00]) := by decide
theorem test_decode_golayEncode :
    decodeTableWord 24 0b00110001_00010011_00000001 = some (.golayEncode 1 3 [0x00]) := by decide
theorem test_decode_csbkPut :
    decode [0x40, 0x00, 0x02, 0x00, 0x03] = .ok (.csbkPut [0x00, 0x03]) := by decide
theorem test_decode_dhPut :
    decodeTableWord 24 0b01000001_00000000_00000000 = some (.dhPut []) := by decide

/-- V7.2, V7.3, V7.4, V7.5, V7.10. -/
theorem test_decode_refusals :
    [decode [0x00, 0x00, 0x01, 0xAA], decode [0x00, 0x01, 0x00], decode [0x03, 0x00, 0x00], decode [0x01, 0x01, 0x00],
      decode [0x01, 0x00, 0x05, 0x31, 0x32], decode [0x00, 0x00, 0x00, 0x00]] =
    [.error .nopWithData, .error .reservedArg, .error .unknownOpc, .error .reservedArg, .error .truncatedCommand,
      .error .trailingBytes] := by decide

/-- The table's rows are told apart by their operation code (R73). -/
theorem test_opcodes_distinct : opcodeRows.Pairwise (fun r q => r.opc ≠ q.opc) := by decide

/-- The notation of R77, its own examples. -/
theorem test_assembly :
    assembly .nop = "NOP" ∧ assembly (.crcAppend [0x31, 0x32, 0x33]) = "CRC.APPEND 31 32 33" ∧
    assembly (.gfMul [0x53, 0xCA]) = "GF.MUL 53 CA" ∧
    assembly (.golayEncode 1 3 [0x00, 0xFA]) = "GOLAY.ENCODE #0x13 00 FA" := by decide

/-! ### The printed tables -/

/-- 40_crc.md section 4. -/
def printedCrcTable : List Crc :=
    [0x0000, 0x1021, 0x2042, 0x3063, 0x4084, 0x50A5, 0x60C6, 0x70E7] ++
    [0x8108, 0x9129, 0xA14A, 0xB16B, 0xC18C, 0xD1AD, 0xE1CE, 0xF1EF] ++
    [0x1231, 0x0210, 0x3273, 0x2252, 0x52B5, 0x4294, 0x72F7, 0x62D6] ++
    [0x9339, 0x8318, 0xB37B, 0xA35A, 0xD3BD, 0xC39C, 0xF3FF, 0xE3DE] ++
    [0x2462, 0x3443, 0x0420, 0x1401, 0x64E6, 0x74C7, 0x44A4, 0x5485] ++
    [0xA56A, 0xB54B, 0x8528, 0x9509, 0xE5EE, 0xF5CF, 0xC5AC, 0xD58D] ++
    [0x3653, 0x2672, 0x1611, 0x0630, 0x76D7, 0x66F6, 0x5695, 0x46B4] ++
    [0xB75B, 0xA77A, 0x9719, 0x8738, 0xF7DF, 0xE7FE, 0xD79D, 0xC7BC] ++
    [0x48C4, 0x58E5, 0x6886, 0x78A7, 0x0840, 0x1861, 0x2802, 0x3823] ++
    [0xC9CC, 0xD9ED, 0xE98E, 0xF9AF, 0x8948, 0x9969, 0xA90A, 0xB92B] ++
    [0x5AF5, 0x4AD4, 0x7AB7, 0x6A96, 0x1A71, 0x0A50, 0x3A33, 0x2A12] ++
    [0xDBFD, 0xCBDC, 0xFBBF, 0xEB9E, 0x9B79, 0x8B58, 0xBB3B, 0xAB1A] ++
    [0x6CA6, 0x7C87, 0x4CE4, 0x5CC5, 0x2C22, 0x3C03, 0x0C60, 0x1C41] ++
    [0xEDAE, 0xFD8F, 0xCDEC, 0xDDCD, 0xAD2A, 0xBD0B, 0x8D68, 0x9D49] ++
    [0x7E97, 0x6EB6, 0x5ED5, 0x4EF4, 0x3E13, 0x2E32, 0x1E51, 0x0E70] ++
    [0xFF9F, 0xEFBE, 0xDFDD, 0xCFFC, 0xBF1B, 0xAF3A, 0x9F59, 0x8F78] ++
    [0x9188, 0x81A9, 0xB1CA, 0xA1EB, 0xD10C, 0xC12D, 0xF14E, 0xE16F] ++
    [0x1080, 0x00A1, 0x30C2, 0x20E3, 0x5004, 0x4025, 0x7046, 0x6067] ++
    [0x83B9, 0x9398, 0xA3FB, 0xB3DA, 0xC33D, 0xD31C, 0xE37F, 0xF35E] ++
    [0x02B1, 0x1290, 0x22F3, 0x32D2, 0x4235, 0x5214, 0x6277, 0x7256] ++
    [0xB5EA, 0xA5CB, 0x95A8, 0x8589, 0xF56E, 0xE54F, 0xD52C, 0xC50D] ++
    [0x34E2, 0x24C3, 0x14A0, 0x0481, 0x7466, 0x6447, 0x5424, 0x4405] ++
    [0xA7DB, 0xB7FA, 0x8799, 0x97B8, 0xE75F, 0xF77E, 0xC71D, 0xD73C] ++
    [0x26D3, 0x36F2, 0x0691, 0x16B0, 0x6657, 0x7676, 0x4615, 0x5634] ++
    [0xD94C, 0xC96D, 0xF90E, 0xE92F, 0x99C8, 0x89E9, 0xB98A, 0xA9AB] ++
    [0x5844, 0x4865, 0x7806, 0x6827, 0x18C0, 0x08E1, 0x3882, 0x28A3] ++
    [0xCB7D, 0xDB5C, 0xEB3F, 0xFB1E, 0x8BF9, 0x9BD8, 0xABBB, 0xBB9A] ++
    [0x4A75, 0x5A54, 0x6A37, 0x7A16, 0x0AF1, 0x1AD0, 0x2AB3, 0x3A92] ++
    [0xFD2E, 0xED0F, 0xDD6C, 0xCD4D, 0xBDAA, 0xAD8B, 0x9DE8, 0x8DC9] ++
    [0x7C26, 0x6C07, 0x5C64, 0x4C45, 0x3CA2, 0x2C83, 0x1CE0, 0x0CC1] ++
    [0xEF1F, 0xFF3E, 0xCF5D, 0xDF7C, 0xAF9B, 0xBFBA, 0x8FD9, 0x9FF8] ++
    [0x6E17, 0x7E36, 0x4E55, 0x5E74, 0x2E93, 0x3EB2, 0x0ED1, 0x1EF0]

theorem test_crcTable : (List.range 256).map (fun i => crcTable (BitVec.ofNat 8 i)) = printedCrcTable := by
  decide +kernel

/-- The default rows are what the pseudocode of 43_golay.md R171 gives on the eight single-bit messages. -/
theorem test_golayRows :
    [0x80, 0x40, 0x20, 0x10, 0x08, 0x04, 0x02, 0x01].map defaultGolayPar = defaultGolayRows.toList := by decide +kernel

/-- 42_rs.md R152, section 2.3 of 95_test_vectors.md: the register after three iterations of V3.17. -/
theorem test_rsParity_trace : rsParity [0x01, 0x02, 0x03] = { reg0 := 0x91, reg1 := 0x3D, reg2 := 0xF5 } := by decide

/-! ### One command from reset -/

/-- V1.13. -/
theorem test_crcAppend : (ran [0x01, 0x00, 0x09, 0x31, 0x32, 0x33, 0x34, 0x35, 0x36, 0x37, 0x38, 0x39]).crcval = 0xD64E ∧
    outOf (ran [0x01, 0x00, 0x09, 0x31, 0x32, 0x33, 0x34, 0x35, 0x36, 0x37, 0x38, 0x39]) =
      [0x31, 0x32, 0x33, 0x34, 0x35, 0x36, 0x37, 0x38, 0x39, 0xD6, 0x4E] := by decide

/-- V1.22: a flipped bit; a mismatch is no failure. -/
theorem test_crcVerify_mismatch :
    let t := ran [0x02, 0x00, 0x0B, 0x31, 0x32, 0x33, 0x34, 0x35, 0x36, 0x37, 0x38, 0xB9, 0xD6, 0x4E]
    t.t = false ∧ t.crcval = 0x47C6 ∧ t.status = 0x00 := by decide

/-- V1.18 and V1.23. -/
theorem test_crcVerify : (ran [0x02, 0x00, 0x03, 0x00, 0x1E, 0x0F]).t = true ∧
    (ran [0x02, 0x00, 0x01, 0x4E]).status = 0x01 := by decide

/-- V2.2: every ignored bit set. -/
theorem test_bptcExtract :
    outOf (ran ([0x10, 0x00, 0x21] ++ List.replicate 24 0x00 ++ [0x0F] ++ List.replicate 8 0xFF)) =
      List.replicate 25 0x00 := by decide +kernel

/-- V2.10. -/
theorem test_bptcDeint :
    outOf (ran [0x11, 0x00, 0x19, 0x00, 0x01, 0x02, 0x03, 0x04, 0x05, 0x06, 0x07, 0x08, 0x09, 0x0A, 0x0B, 0x0C, 0x0D, 0x0E,
      0x0F, 0x10, 0x11, 0x12, 0x13, 0x14, 0x15, 0x16, 0x17, 0x10]) =
      [0x40, 0xD2, 0x0B, 0x00, 0x90, 0x1F, 0x01, 0x50, 0x13, 0x01, 0x10, 0x67, 0x0C, 0x50, 0xA3, 0x08, 0x11, 0xE0, 0x14,
        0x01, 0x20, 0x10, 0x01, 0x60, 0x70] := by decide +kernel

/-- V2.8. -/
theorem test_bptcIntlv :
    outOf (ran ([0x12, 0x00, 0x19] ++ List.replicate 24 0x00 ++ [0x10])) =
      [0x00, 0x01] ++ List.replicate 23 0x00 := by decide +kernel

/-- V2.14 and V2.22. -/
theorem test_bptcHam8 : outOf (ran [0x13, 0x00, 0x01, 0x7A]) = [0x78, 0x07] ∧ (ran [0x13, 0x00, 0x01, 0x7A]).hamc = 1 ∧
    outOf (ran [0x13, 0x00, 0x01, 0x09]) = [0x09, 0x0D] ∧ (ran [0x13, 0x00, 0x01, 0x09]).hamu = 1 := by decide

/-- V2.32. -/
theorem test_bptcDecode :
    let t := ran ([0x14, 0x00, 0x21] ++ (List.range 33).map (BitVec.ofNat 8))
    outOf t = [0x00, 0xD2, 0x0B, 0x00, 0x98, 0x1E, 0x00, 0x54, 0x13, 0x00, 0x00, 0x66] ∧ t.hamc = 0xFCBEF1 ∧
      t.hamu = 0x014104 := by decide +kernel

/-- V3.5 and V3.13. -/
theorem test_gfMul : outOf (ran [0x20, 0x00, 0x02, 0x53, 0xCA]) = [0x8F] ∧
    (ran [0x20, 0x00, 0x01, 0x02]).status = 0x02 := by decide

/-- V3.18a. -/
theorem test_rsEncode : outOf (ran [0x21, 0x00, 0x09, 0x12, 0x34, 0x56, 0x78, 0x9A, 0xBC, 0xDE, 0xF0, 0x0F]) =
    [0x21, 0x68, 0x64] := by decide

/-- V3.20 and V3.21: parity in output order and in register order. -/
theorem test_rsCheck : (ran ([0x22, 0x00, 0x0C, 1, 2, 3, 4, 5, 6, 7, 8, 9] ++ [0xBC, 0x70, 0x1F])).t = true ∧
    (ran ([0x22, 0x00, 0x0C, 1, 2, 3, 4, 5, 6, 7, 8, 9] ++ [0x1F, 0x70, 0xBC])).t = false := by decide

/-- V4.15: three errors. -/
theorem test_golayDecode :
    let t := ran ([0x30, 0x00, 0x15] ++ List.replicate 12 0x00 ++ [0x24, 0xD0, 0, 0, 0, 0, 0, 0x0A, 0xCC])
    t.st = { v := true, cc := 1, dt := 3, nerr := 3 } ∧ outOf t = [0x13] := by decide +kernel

/-- V4.16: four errors. -/
theorem test_golayDecode_uncorrectable :
    let t := ran ([0x30, 0x00, 0x15] ++ List.replicate 12 0x00 ++ [0x24, 0xD0, 0, 0, 0, 0, 0, 0x0A, 0x4C])
    t.status = 0x04 ∧ t.st = SlotType.zero := by decide +kernel

/-- V4.2: bits outside the map are copied. -/
theorem test_golayEncode :
    outOf (ran ([0x31, 0x13, 0x15] ++ List.replicate 21 0xFF)) =
      List.replicate 12 0xFF ++ [0xC4, 0xCF, 0xFF, 0xFF, 0xFF, 0xFF, 0xFF, 0xFA, 0xCB] := by decide +kernel

/-- V5.1. -/
theorem test_csbkPut_bsdwnact :
    let t := ran ([0x40, 0x00, 0x21] ++ frameA)
    (t.csbk.csbko, t.csbk.bsid, t.csbk.srcid, t.csbk.dstid) = (0x38, 0x1E2C32, 0x4A5466, 0) ∧
      t.csbk.data = 0x780000001E2C324A546600001E2D ∧ t.crcval = 0x1E2D := by decide +kernel

/-- V5.7 and V5.8. -/
theorem test_csbkPut_uuvreq :
    let t := after (withUuvreq 0x0A (offered [.command ([0x40, 0x00, 0x21] ++ frameU)]))
    (t.csbk.ovcm, t.csbk.dstid, t.csbk.srcid, t.csbk.bsid) = (true, 0xB4CCD2, 0x8698AA, 0) ∧
      (ran ([0x40, 0x00, 0x21] ++ frameU)).status = 0x06 := by decide +kernel

/-- V6.1. -/
theorem test_dhPut :
    (ran ([0x41, 0x00, 0x0C] ++ headerBlock)).dh =
      { v := true, gi := true, a := true, dstid := 0x000C30, srcid := 0x010932, data := 0xC000000C30010932000007EC } := by
  decide +kernel

/-- V6.5: twelve zero bytes. -/
theorem test_dhPut_invalidCRC :
    let t := ran ([0x41, 0x00, 0x0C] ++ List.replicate 12 0x00)
    t.status = 0x03 ∧ t.crcval = 0x1EC6 := by decide

/-- P3 step 6: `NOP` leaves a failure status readable; V7.8: a refused command. -/
theorem test_nop_and_refused :
    (after (offered [.command [0x00, 0x00, 0x00]])).status = 0x00 ∧
    (after { offered [.command [0x00, 0x00, 0x00]] with status := 0x05 }).status = 0x05 ∧
    (ran [0x41, 0x01, 0x00]).status = 0x07 := by decide

/-- 60_exceptions.md R235: the response of a command; 10_state.md R31: host reads; 70 R261: reset. -/
theorem test_host :
    (ran [0x20, 0x00, 0x02, 0x53, 0xCA]).response = some (.done 0x00 false 1 [0x8F]) ∧
    (after { offered [.readReg 0x02] with olen := 5 }).response = some (.register 5) ∧
    (after { offered [.readObuf 3] with obuf := [(3, 0x7F)] }).response = some (.obufByte 0x7F) ∧
    (after { offered [.reset] with olen := 5 }).olen = 0 := by decide

/-- The word the host places is the next command (opcode_table.json, `GF.MUL` with LEN = 2). -/
theorem test_withFetchWord : (after (State.reset.withFetchWord 24 0x200002)).olen = 1 := by decide

/-! ### Witnesses: for every statement with hypotheses, something that meets them all -/

theorem witness_DecodeEncodeRoundTrip : (Instr.gfMul [0x53, 0xCA]).wf := by decide

theorem witness_EncodeDecodeRoundTrip : decode [0x20, 0x00, 0x02, 0x53, 0xCA] = .ok (.gfMul [0x53, 0xCA]) := by decide

theorem witness_IllFramedBytesRefused :
    decode [0x01, 0x00, 0x05, 0x31, 0x32] = .error .truncatedCommand ∧ decode [0x00, 0x00] = .error .truncatedCommand ∧
    decode [0x00, 0x00, 0x00, 0x00] = .error .trailingBytes ∧
    (offered [.command [0x00, 0x00]]).port = .command [0x00, 0x00] :: [] := by decide

theorem witness_RefusedCommandsExactly :
    (0x03 : Byte) ∉ definedOpcs ∧ ((0x02 : Byte) ≠ 0x31 ∧ (0x80 : Byte) ≠ 0x00) ∧
    (offered [.command [0x00, 0x00, 0x01, 0xAA]]).port =
      .command (0x00 :: 0x00 :: BitVec.ofNat 8 [(0xAA : Byte)].length :: [0xAA]) :: [] ∧
    ((0x31 : Byte) ∈ definedOpcs) ∧
    (offered [.command [0x31, 0x13, 0x00]]).port = .command (0x31 :: 0x13 :: BitVec.ofNat 8 0 :: []) :: [] := by decide

theorem witness_StepRunsDecodedCommand :
    (offered [.command [0x00, 0x00, 0x00], .reset]).port = .command [0x00, 0x00, 0x00] :: [.reset] ∧
    decode [0x00, 0x00, 0x00] = .ok .nop := by decide

theorem witness_EveryCommandTerminates :
    (List.replicate 255 (0xFF : Byte)).length ≤ 255 ∧
    (offered [.command (0x01 :: 0x00 :: BitVec.ofNat 8 (List.replicate 255 (0xFF : Byte)).length ::
      List.replicate 255 0xFF)]).port =
      .command (0x01 :: 0x00 :: BitVec.ofNat 8 (List.replicate 255 (0xFF : Byte)).length ::
        List.replicate 255 0xFF) :: [] := by decide +kernel

theorem witness_ResultIndependentOfOldState :
    ∃ t₁ t₂ : State, Instr.gfMul [2, 3] ≠ .nop ∧ State.reset.cfg = (offered [.reset]).cfg ∧
      exec (.gfMul [2, 3]) State.reset = .next t₁ ∧ exec (.gfMul [2, 3]) (offered [.reset]) = .next t₂ :=
  ⟨_, _, by decide, rfl, rfl, rfl⟩

theorem witness_StepConsumesOneEventInOrder :
    ∃ t, (offered [.readReg 0, .reset]).port = .readReg 0 :: [.reset] ∧
      step (offered [.readReg 0, .reset]) = .next t ∧ State.reset.port = [] :=
  ⟨_, rfl, rfl, rfl⟩

theorem witness_ResetEventZeroesKeepsConfig : (offered [.reset]).port = .reset :: [] := rfl

/-- The last register, a number next to it that is none, the last byte, the first that is none, a read twice. -/
theorem witness_HostReadsHaveNoSideEffect :
    (offered [.readReg 0x33]).port = .readReg 0x33 :: [] ∧
    0x34 ∉ [0x00, 0x01, 0x02, 0x03, 0x04, 0x05, 0x10, 0x11, 0x12, 0x13, 0x14, 0x15, 0x16, 0x17, 0x18, 0x19,
        0x20, 0x21, 0x22, 0x23, 0x24, 0x25, 0x30, 0x31, 0x32, 0x33] ∧
    (offered [.readObuf 256]).port = .readObuf 256 :: [] ∧ (256 ≤ 256 ∧ 256 < 257) ∧
    ∃ t u, step (offered [.readReg 0x33, .readReg 0x33]) = .next t ∧ step t = .next u :=
  ⟨rfl, by decide, rfl, by decide, _, _, rfl, rfl⟩

/-- The reset state meets every invariant (`Obligations.ResetStateIsSafe` states it), and a step leads on from it. -/
theorem witness_StepKeepsCommonInv : CommonInv State.reset ∧ step State.reset = .next State.reset :=
  ⟨by constructor <;> simp [State.reset, Memory.wf], rfl⟩

theorem witness_StepKeepsCsbkInv : CsbkInv State.reset ∧ (∃ t, exec (.csbkPut []) State.reset = .next t) :=
  ⟨by constructor <;> simp [State.reset, Csbk.zero], _, rfl⟩

theorem witness_StepKeepsDhInv : DhInv State.reset ∧ (∃ t, exec (.dhPut []) State.reset = .next t) :=
  ⟨by constructor <;> simp [State.reset, DataHeader.zero], _, rfl⟩

theorem witness_StepKeepsStInv :
    StInv State.reset ∧ (∃ t, exec (.golayEncode 1 3 []) State.reset = .next t) ∧
      (∃ t, exec (.golayDecode []) State.reset = .next t) :=
  ⟨fun _ => rfl, ⟨_, rfl⟩, ⟨_, rfl⟩⟩

theorem witness_StepKeepsConfig : step State.reset = .next State.reset := rfl

theorem witness_UnitGroupsPersist :
    (∃ t, exec (.gfMul []) State.reset = .next t) ∧ (∃ t, refuseCommand State.reset = .next t) ∧
      (∃ t, exec .nop State.reset = .next t) ∧ (Instr.gfMul []).opc ≠ 0x40 :=
  ⟨⟨_, rfl⟩, ⟨_, rfl⟩, ⟨_, rfl⟩, by decide⟩

/-- A failure of each kind: length, wakeup, opcode, CRC. -/
theorem witness_FailureEffect :
    (ran [0x20, 0x00, 0x00]).status = 0x02 ∧ (ran [0x40, 0x00, 0x02, 0x01, 0x03]).status = 0x05 ∧
    (ran [0x40, 0x00, 0x02, 0x00, 0x03]).status = 0x06 ∧
    (ran ([0x41, 0x00, 0x0C] ++ List.replicate 12 0x00)).status = 0x03 := by decide +kernel

theorem witness_LengthContracts :
    ((Instr.bptcHam8 []).opc, 1) ∈ ([(0x10, 33), (0x11, 25), (0x12, 25), (0x13, 1), (0x14, 33), (0x20, 2), (0x21, 9),
      (0x22, 12), (0x30, 21), (0x31, 21)] : List (Byte × Nat)) ∧ (Instr.bptcHam8 []).data.length ≠ 1 ∧
    ((Instr.dhPut [0x00]).opc, 12) ∈ ([(0x02, 2), (0x40, 2), (0x41, 12)] : List (Byte × Nat)) ∧
    (Instr.dhPut [0x00]).data.length < 12 ∧
    2 ≤ [(0x00 : Byte), 0x00].length := by decide

theorem witness_CrcvalSetByFourCommands :
    ∃ t, Instr.crcAppend [] ≠ .nop ∧ exec (.crcAppend []) State.reset = .next t := ⟨_, by decide, rfl⟩

theorem witness_OnlyOverlongAppendStops :
    (Instr.csbkPut []).wf ∧ 255 < (List.replicate 256 (0x00 : Byte)).length := by decide +kernel

theorem witness_NopDoesNothing :
    (offered [.command [0x00, 0x01, 0x00]]).port = .command (0x00 :: 0x01 :: BitVec.ofNat 8 0 :: []) :: [] ∧
    ((0x01 : Byte) ≠ 0x00 ∨ ([] : List Byte) ≠ []) := by decide

/-- The shortest and the longest data of `CRC.APPEND`. -/
theorem witness_CrcAppendResult :
    ([] : List Byte).length ≤ 255 ∧ (List.replicate 255 (0xFF : Byte)).length ≤ 255 := by decide +kernel

theorem witness_CrcVerifyResult :
    2 ≤ [(0x00 : Byte), 0x00].length ∧ [(0x00 : Byte)].length < 2 ∧
    (∃ t, exec (.crcVerify [0, 0]) State.reset = .next t) := ⟨by decide, by decide, _, rfl⟩

theorem witness_CrcRoundTripDetectsFlip :
    [(0x31 : Byte)].length ≤ 253 ∧ (2 < [(0x31 : Byte)].length + 2 ∧ 7 < 8) := by decide

theorem witness_BptcExtractResult :
    (List.replicate 33 (0xFF : Byte)).length = 33 ∧ (List.replicate 32 (0xFF : Byte)).length ≠ 33 := by decide

theorem witness_BptcDeintResult :
    (List.replicate 25 (0xFF : Byte)).length = 25 ∧ (List.replicate 24 (0xFF : Byte)).length ≠ 25 := by decide

theorem witness_BptcIntlvResult :
    (List.replicate 25 (0x0F : Byte)).length = 25 ∧ (List.replicate 26 (0xFF : Byte)).length ≠ 25 := by decide

theorem witness_DeintIntlvInverse : (extract (List.replicate 33 0xFF)).length = 196 := by simp [extract, bitsOf, bptcBits]

theorem witness_BptcHam8Result : ([] : List Byte).length ≠ 1 := by decide

theorem witness_BptcDecodeResult :
    (List.replicate 33 (0xFF : Byte)).length = 33 ∧ (List.replicate 34 (0xFF : Byte)).length ≠ 33 ∧
    (List.replicate 33 (0xFF : Byte)).take 24 = (List.replicate 24 0xFF ++ [0xF0] ++ List.replicate 8 0x00).take 24 ∧
    (List.replicate 33 (0xFF : Byte)).getD 24 0 &&& 0xF0 =
      (List.replicate 24 0xFF ++ [0xF0] ++ List.replicate 8 0x00).getD 24 0 &&& 0xF0 := by decide

theorem witness_PayloadNeedsOnly24Bytes :
    (List.replicate 33 (0xFF : Byte)).take 24 = (List.replicate 24 0xFF ++ List.replicate 9 0x00).take 24 ∧
    (∃ t, exec (.bptcDecode (List.replicate 33 0xFF)) State.reset = .next t) ∧
    (∃ t, exec (.bptcDecode (List.replicate 24 0xFF ++ List.replicate 9 0x00)) State.reset = .next t) ∧
    27 ≤ frameA.length ∧ frameA.take 27 = (frameA.take 27 ++ [0xAA]).take 27 :=
  ⟨by decide, ⟨_, exec_of_runs (by decide +kernel)⟩, ⟨_, exec_of_runs (by decide +kernel)⟩, by decide, by decide⟩

theorem witness_GfMulResult : [(0x02 : Byte)].length ≠ 2 ∧ [(0x02 : Byte)].length ≤ 255 := by decide

theorem witness_RsEncodeResult :
    (List.replicate 9 (0x01 : Byte)).length = 9 ∧ (List.replicate 10 (0x01 : Byte)).length ≠ 9 := by decide

theorem witness_RsCheckResult :
    (List.replicate 12 (0x01 : Byte)).length = 12 ∧ (List.replicate 11 (0x01 : Byte)).length ≠ 12 := by decide

theorem witness_RsSelfConsistency :
    (List.replicate 9 (0x01 : Byte)).length = 9 ∧ (9 ≤ 11 ∧ 11 ≤ 11) ∧
    (0x02 : Byte) ≠ (List.replicate 9 (0x01 : Byte) ++ rsEncode (List.replicate 9 0x01)).getD 11 0 := by decide

/-- The zero codeword, and a word that differs from it in three bytes. -/
theorem witness_RsCodewordRootsAndDistance :
    (List.replicate 9 (0x01 : Byte)).length = 9 ∧ (0x08 : Byte) ∈ ([0x02, 0x04, 0x08] : List Byte) ∧ ∃ t, exec (.rsCheck (List.replicate 12 0)) State.reset = .next t ∧ t.t = true ∧
      List.replicate 12 (0 : Byte) ≠ [1, 1, 1] ++ List.replicate 9 0 ∧
      (List.range 12).countP (fun k => (List.replicate 12 (0 : Byte)).getD k 0 !=
        ([1, 1, 1] ++ List.replicate 9 (0 : Byte)).getD k 0) ≤ 3 :=
  ⟨by decide, by decide, _, rfl, by decide, by decide, by decide⟩

/-! The default code meets `golay_dmin7`: by linearity its distances are the weights of its codewords. -/

theorem fold_xor_rows (rows : Nat → BitVec 12) (p q r : Nat → Bool) (hp : ∀ k, p k = Bool.xor (q k) (r k)) (l : List Nat)
    (x y : BitVec 12) :
    l.foldl (fun acc k => if p k then acc ^^^ rows k else acc) (x ^^^ y) =
      l.foldl (fun acc k => if q k then acc ^^^ rows k else acc) x ^^^
        l.foldl (fun acc k => if r k then acc ^^^ rows k else acc) y := by
  induction l generalizing x y with
  | nil => rfl
  | cons k l ih =>
    rw [List.foldl_cons, List.foldl_cons, List.foldl_cons, ← ih]
    congr 1
    rw [hp]
    cases q k <;> cases r k
    · rfl
    · exact BitVec.xor_assoc _ _ _
    · show x ^^^ y ^^^ rows k = x ^^^ rows k ^^^ y
      ac_rfl
    · show x ^^^ y = x ^^^ rows k ^^^ (y ^^^ rows k)
      rw [show x ^^^ rows k ^^^ (y ^^^ rows k) = x ^^^ y ^^^ (rows k ^^^ rows k) by ac_rfl, BitVec.xor_self,
        BitVec.xor_zero]

theorem default_weights : ∀ m : Byte, m ≠ 0 → 7 ≤ wt (golayCw defaultConfig m) := by decide +kernel

theorem witness_GolayDmin7 : defaultConfig.GolayDmin7 := by
  intro a b hab
  have hpar : golayPar defaultConfig (a ^^^ b) = golayPar defaultConfig a ^^^ golayPar defaultConfig b :=
    fold_xor_rows _ _ _ _ (fun k => BitVec.getMsbD_xor) (List.range 8) 0 0
  have hcw : golayCw defaultConfig a ^^^ golayCw defaultConfig b = golayCw defaultConfig (a ^^^ b) := by
    rw [golayCw, golayCw, golayCw, hpar, BitVec.xor_append]
  rw [Machine.dist, hcw]
  exact default_weights _ (fun h => hab (BitVec.xor_eq_zero_iff.1 h))

theorem witness_SlotDistinct : defaultConfig.SlotDistinct := by
  have h : ∀ j < 20, ∀ k < 20, slotPos defaultConfig j = slotPos defaultConfig k → j = k := by decide +kernel
  exact fun j k hj hk => h j hj k hk

theorem witness_ConfigWF : defaultConfig.WF := ⟨by decide, witness_GolayDmin7, witness_SlotDistinct⟩

theorem witness_OneStatusPerCommand :
    (∃ t, exec (.golayDecode (List.replicate 21 0)) State.reset = .next t) ∧ (0x03 : Byte) ∉ definedOpcs :=
  ⟨⟨_, rfl⟩, by decide⟩

/-- A word at distance 3 from the codeword of 0x00 (V4.18), and one at distance 4 or more from every one (V4.20). -/
theorem witness_GolayDecodeResult :
    State.reset.cfg.GolayDmin7 ∧ (List.replicate 20 (0x00 : Byte) ++ [0x1C]).length = 21 ∧
    Machine.dist (slotGet defaultConfig (List.replicate 20 0x00 ++ [0x1C])) (golayCw defaultConfig 0x00) ≤ 3 ∧
    (∀ m : Byte, 3 < Machine.dist (slotGet defaultConfig (List.replicate 20 0x00 ++ [0x3C])) (golayCw defaultConfig m)) :=
  ⟨witness_GolayDmin7, by decide, by decide +kernel, by decide +kernel⟩

theorem witness_GolayEncodeResult :
    State.reset.cfg.SlotDistinct ∧ (List.replicate 21 (0xFF : Byte)).length = 21 ∧
    (List.replicate 20 (0xFF : Byte)).length ≠ 21 :=
  ⟨witness_SlotDistinct, by decide, by decide⟩

theorem witness_GolayCorrectsThreeErrors :
    State.reset.cfg.WF ∧ (List.replicate 21 (0xFF : Byte)).length = 21 ∧ wt (0x80401 : Codeword) ≤ 3 :=
  ⟨witness_ConfigWF, by decide, by decide⟩

theorem witness_SlotGetPut : defaultConfig.SlotDistinct ∧ (List.replicate 21 (0xFF : Byte)).length = 21 :=
  ⟨witness_SlotDistinct, by decide⟩

/-- The three arms of the dispatch: `BSDWNACT` (V5.1), `UUVREQ` with another parameter (V5.7), neither (V5.10). -/
theorem witness_CsbkPutDispatch :
    (2 ≤ frameA.length ∧ frameA.getD 0 0 = defaultConfig.tagData ∧ frameA.getD 1 0 = defaultConfig.wakeupFlags ∧
      ((bptcDecode (padOrTruncate frameA)).payload.getD 0 0).extractLsb' 0 6 = defaultConfig.opcBsdwnact) ∧
    (frameU.getD 0 0 = 0x00 ∧ frameU.getD 1 0 = 0x03 ∧
      ((bptcDecode (padOrTruncate frameU)).payload.getD 0 0).extractLsb' 0 6 = (0x0A : BitVec 6) ∧
      defaultConfig.opcBsdwnact ≠ 0x0A) ∧
    ((bptcDecode (padOrTruncate [0x00, 0x03])).payload.getD 0 0).extractLsb' 0 6 ∉
      [defaultConfig.opcBsdwnact, defaultConfig.opcUuvreq] := by decide +kernel

theorem witness_CsbkPutRejects :
    [(0x00 : Byte)].length < 2 ∧ 2 ≤ [(0x00 : Byte), 0xC3].length ∧ (0xC3 : Byte) ≠ defaultConfig.wakeupFlags ∧
    [(0x00 : Byte), 0x03].getD 1 0 = defaultConfig.wakeupFlags := by decide

theorem witness_CsbkPutNeverInvalidCrc :
    ∃ t, exec (.csbkPut frameA) State.reset = .next t ∧ t.csbk.v = true :=
  ⟨_, exec_of_runs (by decide +kernel), by decide +kernel⟩

theorem witness_CsbkPutUnreachableResults : ∃ t, exec (.csbkPut frameA) State.reset = .next t :=
  ⟨_, exec_of_runs (by decide +kernel)⟩

/-- The payload of the worked example of 44_csbk.md R196, with its two arms. -/
theorem witness_CsbkEncodedPayloadDecodes :
    let p : List Byte := [0x78, 0x00, 0x00, 0x00, 0x1E, 0x2C, 0x32, 0x4A, 0x54, 0x66, 0x00, 0x00]
    p.length = 12 ∧ (List.replicate 8 (0 : Byte)).length = 8 ∧ (List.replicate 100 false).length = 100 ∧
    (∀ b ∈ p, ham8Byte b = b) ∧ (p.getD 0 0).extractLsb' 0 6 = defaultConfig.opcBsdwnact ∧
    ((0x00 : Byte).extractLsb' 0 6) ∉ [defaultConfig.opcBsdwnact, defaultConfig.opcUuvreq] := by decide

theorem witness_CsbkPutPadsAndTruncates :
    32 < 33 ∧ 2 ≤ [(0x00 : Byte), 0x03].length := by decide

/-- A block whose trailer matches (V6.1), one whose trailer does not (V6.5), one too short (V6.8). -/
theorem witness_DhPutResult :
    (12 ≤ headerBlock.length ∧ headerBlock.getD 10 0 ++ headerBlock.getD 11 0 = crc16 (headerBlock.take 10)) ∧
    ((List.replicate 12 (0 : Byte)).getD 10 0 ++ (List.replicate 12 (0 : Byte)).getD 11 0 ≠
      crc16 ((List.replicate 12 0).take 10)) ∧ (headerBlock.take 11).length < 12 := by decide

/-- Three blocks of one configuration: two that step, the last refused for an ill-framed command. -/
def threeBlocks : List State := [offered [.reset], offered [.readReg 0], offered [.command [0x00]]]

theorem witness_InstancesShareNothing :
    threeBlocks[1]? = some (offered [.readReg 0]) ∧ (∃ t, step (offered [.readReg 0]) = .next t) ∧
    (∀ b ∈ threeBlocks, b.cfg = defaultConfig) ∧
    0 ≠ 1 ∧ threeBlocks[0]? = some (offered [.reset]) ∧ (∃ t, step (offered [.reset]) = .next t) ∧
    threeBlocks[2]? = some (offered [.command [0x00]]) ∧
    step (offered [.command [0x00]]) = .refused .truncatedCommand :=
  ⟨rfl, ⟨_, rfl⟩, by decide, by decide, rfl, ⟨_, rfl⟩, rfl, rfl⟩

theorem witness_DefaultWorkedExamples : State.reset.cfg = defaultConfig := rfl

end Sys2Proof.Tests.Slice0
end

section
/-! PROOFS. The parameters of a block over a command and over a step (00_scope.md R6, 70_reset_and_hazards.md R261,
R262). -/

namespace Sys2Proof.Machine

/-- No command writes a parameter (00_scope.md R6). -/
theorem exec_cfg {i : Instr} {s t : State} (h : exec i s = .next t) : t.cfg = s.cfg := by
  by_cases hi : i = .nop
  · subst hi
    cases h
    rfl
  · obtain ⟨l, rfl, -⟩ := exec_left hi h
    exact l.apply_cfg s

/-- Settles O18: of what a step can do (`step_next`), a command keeps the parameters by `exec_cfg`, and the
other cases, `RESET` included, carry them over. -/
theorem stepKeepsConfig : Obligations.StepKeepsConfig := by
  intro s t h
  obtain ⟨-, rfl⟩ | ⟨e, rest, -, hcase⟩ := step_next h
  · rfl
  · obtain ⟨bytes, i, u, -, -, hexec, rfl⟩ | ⟨bytes, u, -, rfl, rfl⟩ | ⟨r, rfl⟩ | ⟨-, rfl⟩ := hcase
    · simpa using exec_cfg hexec
    · simp
    · simp
    · simp

end Sys2Proof.Machine
end

section
/-! PROOFS. A byte-array register holds its bytes big-endian (20_memory.md R53): each field of the register is the
bytes it stands over, and reading the register back gives the bytes. -/

namespace Sys2Proof.Machine

theorem beNat_append_singleton (bytes : List Byte) (b : Byte) :
    beNat (bytes ++ [b]) = 2 ^ 8 * beNat bytes + b.toNat := by
  simp [beNat]

/-- Bit `8 m + j` of the number is bit j of the byte m places from the end. -/
theorem testBit_beNat (bytes : List Byte) {k j : Nat} (hk : k < bytes.length) (hj : j < 8) :
    (beNat bytes).testBit (8 * (bytes.length - 1 - k) + j) = (bytes.getD k 0#8).getLsbD j := by
  induction bytes using List.reverseRecOn with
  | nil => simp at hk
  | append_singleton bytes b ih =>
    rw [beNat_append_singleton, Nat.testBit_two_pow_mul_add _ b.isLt]
    simp only [List.length_append, List.length_singleton] at hk ⊢
    obtain hk | rfl : k < bytes.length ∨ k = bytes.length := by omega
    · rw [if_neg (by omega), List.getD_append _ _ _ _ hk, ← ih hk]
      congr 1
      omega
    · simp [hj, BitVec.getLsbD]

section
variable {w : Nat} {bytes : List Byte} (hw : w = 8 * bytes.length)
include hw

/-- A bit of a byte-array register. -/
theorem getLsbD_reg {k j : Nat} (hk : k < bytes.length) (hj : j < 8) :
    (BitVec.ofNat w (beNat bytes)).getLsbD (8 * (bytes.length - 1 - k) + j) = (bytes.getD k 0#8).getLsbD j := by
  rw [BitVec.getLsbD_ofNat, testBit_beNat bytes hk hj, decide_eq_true (by omega), Bool.true_and]

/-- A field inside one byte of a byte-array register. -/
theorem extractLsb'_reg {k n : Nat} (hk : k < bytes.length) (hn : n ≤ 8) :
    (BitVec.ofNat w (beNat bytes)).extractLsb' (8 * (bytes.length - 1 - k)) n = (bytes.getD k 0#8).setWidth n := by
  apply BitVec.eq_of_getLsbD_eq
  intro j hj
  rw [BitVec.getLsbD_extractLsb', getLsbD_reg hw hk (by omega), BitVec.getLsbD_setWidth]

/-- One byte of a byte-array register. -/
theorem extractLsb'_reg_byte {k : Nat} (hk : k < bytes.length) :
    (BitVec.ofNat w (beNat bytes)).extractLsb' (8 * (bytes.length - 1 - k)) 8 = bytes.getD k 0#8 := by
  rw [extractLsb'_reg hw hk le_rfl, BitVec.setWidth_eq]

/-- Reading a byte-array register back gives the bytes it was written from. -/
theorem bytesOfReg_reg : bytesOfReg bytes.length (BitVec.ofNat w (beNat bytes)) = bytes := by
  apply List.ext_getElem (by simp [bytesOfReg])
  intro k _ hk
  simpa [bytesOfReg, hk] using extractLsb'_reg_byte hw hk

/-- Two bytes of a byte-array register, as one field. -/
theorem extractLsb'_reg_two {k : Nat} (hk : k + 1 < bytes.length) :
    (BitVec.ofNat w (beNat bytes)).extractLsb' (8 * (bytes.length - 1 - (k + 1))) 16 =
      bytes.getD k 0#8 ++ bytes.getD (k + 1) 0#8 := by
  rw [← extractLsb'_reg_byte hw hk, ← extractLsb'_reg_byte hw (k := k) (by omega),
    BitVec.extractLsb'_append_extractLsb'_eq_extractLsb' (by omega)]

/-- An identity in a byte-array register (00_scope.md R10). -/
theorem extractLsb'_reg_be24 {k : Nat} (hk : k + 2 < bytes.length) :
    (BitVec.ofNat w (beNat bytes)).extractLsb' (8 * (bytes.length - 1 - (k + 2))) 24 = be24 bytes k := by
  rw [be24, ← extractLsb'_reg_two hw (k := k) (by omega), ← extractLsb'_reg_byte hw hk,
    BitVec.extractLsb'_append_extractLsb'_eq_extractLsb' (by omega)]

end

end Sys2Proof.Machine
end

section
/-! PROOFS. What a fresh CRC trailer and a corrected payload hold: the trailer verifies (44_csbk.md R193), and each
payload byte is an output of the group correction, which leaves it unchanged (41_bptc.md R131). -/

namespace Sys2Proof.Machine

@[simp] theorem hiByte_append_loByte (c : Crc) : hiByte c ++ loByte c = c := by
  rw [hiByte, loByte, BitVec.extractLsb'_append_extractLsb'_eq_extractLsb' (by omega), BitVec.extractLsb'_eq_self]

@[simp] theorem crcCovered_crcAppend (d : List Byte) : crcCovered (crcAppend d) = d := by
  simp [crcCovered, crcAppend]

theorem getD_crcAppend_of_lt {d : List Byte} {k : Nat} (hk : k < d.length) :
    (crcAppend d).getD k 0#8 = d.getD k 0#8 :=
  List.getD_append _ _ _ _ hk

/-- A fresh trailer always verifies (44_csbk.md R193). -/
@[simp] theorem crcVerify_crcAppend (d : List Byte) : crcVerify (crcAppend d) = true := by
  simp [crcVerify, crcAppend, crcTrailer, crcCovered]

/-- A trailer that verifies is the CRC of the bytes it covers, high byte first (40_crc.md R103). -/
theorem trailer_of_crcVerify {bytes : List Byte} (h : crcVerify bytes = true) :
    bytes.getD (bytes.length - 2) 0#8 ++ bytes.getD (bytes.length - 1) 0#8 = crc16 (crcCovered bytes) := by
  simp only [crcVerify, Bool.and_eq_true, beq_iff_eq] at h
  rw [h.1, h.2, hiByte_append_loByte]

/-- The trailer field of a byte-array register whose bytes verify. -/
theorem extractLsb'_reg_trailer {w : Nat} {bytes : List Byte} (hw : w = 8 * bytes.length) (h2 : 2 ≤ bytes.length)
    (h : crcVerify bytes = true) : (BitVec.ofNat w (beNat bytes)).extractLsb' 0 16 = crc16 (crcCovered bytes) := by
  have htwo := extractLsb'_reg_two hw (k := bytes.length - 2) (by omega)
  rw [show bytes.length - 2 + 1 = bytes.length - 1 by omega, Nat.sub_self, trailer_of_crcVerify h] at htwo
  exact htwo

/-- Indexing into blocks of one size. -/
theorem getElem?_flatMap_of_length {α β : Type} {f : α → List β} {m : Nat} {l : List α}
    (hm : ∀ x ∈ l, (f x).length = m) {i j : Nat} {x : α} (hx : l[i]? = some x) (hj : j < m) :
    (l.flatMap f)[m * i + j]? = (f x)[j]? := by
  induction l generalizing i with
  | nil => simp at hx
  | cons y l ih =>
    have hy : (f y).length = m := hm y (by simp)
    rw [List.flatMap_cons]
    cases i with
    | zero =>
      obtain rfl : y = x := by simpa using hx
      rw [Nat.mul_zero, Nat.zero_add, List.getElem?_append_left (by omega)]
    | succ i =>
      rw [Nat.mul_succ, List.getElem?_append_right (by omega), hy, show m * i + m + j - m = m * i + j by omega]
      exact ih (fun z hz => hm z (by simp [hz])) (by simpa using hx)

/-- Group k of a corrected vector is the corrected group k (41_bptc.md R123). -/
theorem getD_hamFixAll {d : List Bool} (hd : d.length = 196) {k j : Nat} (hk : k < 24) (hj : j < 8) :
    (hamFixAll d).getD (8 * k + j) false = (hamFix (group d k)).getD j false := by
  have hlen : ∀ g ∈ groups d, (hamFix g).length = 8 := by
    intro g hg
    simp only [groups, List.mem_map, List.mem_range] at hg
    obtain ⟨n, hn, rfl⟩ := hg
    rw [length_hamFix, length_group (by omega)]
  have hg : (groups d)[k]? = some (group d k) := by simp [groups, hk]
  have hbit := getElem?_flatMap_of_length hlen hg hj
  have hlt : 8 * k + j < ((groups d).flatMap hamFix).length := by
    by_contra hge
    rw [List.getElem?_eq_none (by omega), eq_comm, List.getElem?_eq_none_iff, hlen _ (List.mem_of_getElem? hg)] at hbit
    omega
  rw [hamFixAll, List.getD_append _ _ _ _ hlt, List.getD_eq_getElem?_getD, hbit, List.getD_eq_getElem?_getD]

/-- The group held in a byte is the group the byte was made of. -/
theorem groupOfByte_byteOfGroup {g : List Bool} (hg : g.length = 8) : groupOfByte (byteOfGroup g) = g := by
  apply List.ext_getElem (by simp [groupOfByte, hg])
  intro j h1 h2
  have hj : j < 8 := hg ▸ h2
  simp [groupOfByte, bitsOf, byteOfGroup, getMsbD_ofBitsMsb, Nat.div_eq_of_lt, Nat.mod_eq_of_lt, hj, h2]

/-- Byte k of the payload is group k after correction (41_bptc.md R125, R132). -/
theorem getD_payload (block : List Byte) {k : Nat} (hk : k < 12) :
    (bptcDecode block).payload.getD k 0#8 = ham8Byte (byteOfGroup (group (deint (extract block)) k)) := by
  have hd : (deint (extract block)).length = 196 := length_deint _
  rw [ham8Byte, groupOfByte_byteOfGroup (length_group (by omega))]
  apply BitVec.eq_of_getMsbD_eq
  intro j hj
  rw [bptcDecode, getMsbD_getD_pack _ _ _ hj, byteOfGroup, getMsbD_ofBitsMsb, decide_eq_true hj, Bool.true_and,
    ← getD_hamFixAll hd (by omega) hj, List.getD_eq_getElem?_getD, List.getElem?_take_of_lt (by omega),
    ← List.getD_eq_getElem?_getD]

/-- The group correction leaves its own outputs unchanged (41_bptc.md R131): for each of the 256 bytes. -/
theorem ham8Byte_ham8Byte : ∀ b : Byte, ham8Byte (ham8Byte b) = ham8Byte b := by decide +kernel

theorem ham8Byte_getD_payload (block : List Byte) {k : Nat} (hk : k < 12) :
    ham8Byte ((bptcDecode block).payload.getD k 0#8) = (bptcDecode block).payload.getD k 0#8 := by
  rw [getD_payload block hk, ham8Byte_ham8Byte]

end Sys2Proof.Machine
end

section
/-! PROOFS. The three commands that write a unit group, each with its outcomes said once: what `CSBK.PUT`, `DH.PUT`
and `GOLAY.DECODE` can lead to, in the order of their checks. -/

namespace Sys2Proof.Machine

/-- `CSBK.PUT` past its header test, with the masks and the CRC of the payload written (44_csbk.md R196). -/
def csbkDecoded (data : List Byte) (s : State) : State :=
  let r := bptcDecode (padOrTruncate data)
  setCrcval (crc16 r.payload) (setHam r.hamc r.hamu (prologueCsbk s))

/-- What `CSBK.PUT` can lead to. The fresh trailer never mismatches, so `InvalidCRC` is not among it. -/
theorem csbkPut_next {data : List Byte} {s t : State} (h : exec (.csbkPut data) s = .next t) :
    (data.length < 2 ∧ t = setStatus .dataTooShort (prologueCsbk s)) ∨
    (2 ≤ data.length ∧ wakeupOk s.cfg data = false ∧ t = setStatus .invalidWakeup (prologueCsbk s)) ∨
    (2 ≤ data.length ∧ wakeupOk s.cfg data = true ∧
      ((csbkFields s.cfg (bptcDecode (padOrTruncate data)).payload = none ∧
          t = setStatus .unsupportedOpcode (csbkDecoded data s)) ∨
       (∃ g, csbkFields s.cfg (bptcDecode (padOrTruncate data)).payload = some g ∧
          t = setStatus .ok (writeOut (crcAppend (bptcDecode (padOrTruncate data)).payload)
            (setCsbk g (csbkDecoded data s)))))) := by
  rcases requireMinLen_next h with ⟨hlen, h⟩ | ⟨hlen, rfl⟩
  · cases hw : wakeupOk s.cfg data with
    | false =>
      simp only [hw, Bool.not_false, if_true, raise_eq] at h
      cases h
      exact .inr (.inl ⟨hlen, rfl, rfl⟩)
    | true =>
      simp only [hw, crcVerify_crcAppend, Bool.not_true, Bool.false_eq_true, if_false] at h
      refine .inr (.inr ⟨hlen, rfl, ?_⟩)
      cases hg : csbkFields s.cfg (bptcDecode (padOrTruncate data)).payload with
      | none =>
        simp only [hg, raise_eq] at h
        cases h
        exact .inl ⟨rfl, rfl⟩
      | some g =>
        simp only [hg] at h
        exact .inr ⟨g, rfl, (emit_next h).2⟩
  · exact .inl ⟨hlen, rfl⟩

/-- `DH.PUT` on 12 bytes or more, with the CRC of bytes 0 to 9 written (45_dataheader.md R211). -/
def dhChecked (data : List Byte) (s : State) : State :=
  setCrcval (crc16 (crcCovered (ibufSlice data 0 dhBlock))) (prologueDh s)

/-- What `DH.PUT` can lead to. -/
theorem dhPut_next {data : List Byte} {s t : State} (h : exec (.dhPut data) s = .next t) :
    (data.length < 12 ∧ t = setStatus .dataTooShort (prologueDh s)) ∨
    (12 ≤ data.length ∧
      ((crcVerify (ibufSlice data 0 dhBlock) = false ∧ t = setStatus .invalidCRC (dhChecked data s)) ∨
       (crcVerify (ibufSlice data 0 dhBlock) = true ∧
          t = setStatus .ok (writeOut (ibufSlice data 0 dhBlock)
            (setDh (dhFields (ibufSlice data 0 dhBlock)) (dhChecked data s)))))) := by
  rcases requireMinLen_next h with ⟨hlen, h⟩ | ⟨hlen, rfl⟩
  · refine .inr ⟨hlen, ?_⟩
    cases hc : crcVerify (ibufSlice data 0 dhBlock) with
    | false =>
      simp only [hc, Bool.not_false, if_true, raise_eq] at h
      cases h
      exact .inl ⟨rfl, rfl⟩
    | true =>
      simp only [hc, Bool.not_true, Bool.false_eq_true, if_false] at h
      exact .inr ⟨rfl, (emit_next h).2⟩
  · exact .inl ⟨hlen, rfl⟩

/-- What `GOLAY.DECODE` can lead to. -/
theorem golayDecode_next {data : List Byte} {s t : State} (h : exec (.golayDecode data) s = .next t) :
    (data.length ≠ 21 ∧ t = setStatus .invalidLength (prologueSt s)) ∨
    (data.length = 21 ∧
      ((golayDecode s.cfg (slotGet s.cfg data) = none ∧ t = setStatus .fecUncorrectable (prologueSt s)) ∨
       (∃ m n, golayDecode s.cfg (slotGet s.cfg data) = some (m, n) ∧
          t = setStatus .ok (writeOut [m] (setSt (slotTypeOf m n) (prologueSt s)))))) := by
  rcases requireLen_next h with ⟨hlen, h⟩ | ⟨hlen, rfl⟩
  · refine .inr ⟨hlen, ?_⟩
    cases hd : golayDecode s.cfg (slotGet s.cfg data) with
    | none =>
      simp only [hd, raise_eq] at h
      cases h
      exact .inl ⟨rfl, rfl⟩
    | some r =>
      simp only [hd] at h
      exact .inr ⟨r.1, r.2, rfl, (emit_next h).2⟩
  · exact .inl ⟨hlen, rfl⟩

/-- A decoded byte has its codeword at the distance reported, within radius 3 (43_golay.md R172). -/
theorem golayDecode_some {c : Config} {r : Codeword} {m : Byte} {n : Nat} (h : golayDecode c r = some (m, n)) :
    n = dist r (golayCw c m) ∧ n ≤ 3 := by
  obtain ⟨a, -, ha⟩ := List.exists_of_findSome?_eq_some h
  dsimp only at ha
  split at ha
  · cases ha
    exact ⟨rfl, by assumption⟩
  · cases ha

/-! ### The command of an operation code -/

theorem opc_eq_csbkPut {i : Instr} (h : i.opc = 0x40) : ∃ data, i = .csbkPut data := by
  cases i <;> simp_all [Instr.opc]

theorem opc_eq_dhPut {i : Instr} (h : i.opc = 0x41) : ∃ data, i = .dhPut data := by
  cases i <;> simp_all [Instr.opc]

theorem opc_eq_golayDecode {i : Instr} (h : i.opc = 0x30) : ∃ data, i = .golayDecode data := by
  cases i <;> simp_all [Instr.opc]

end Sys2Proof.Machine
end

section
/-! PROOFS. The induction over steps, said once (`step_keeps`), and the invariant of the common registers and `OBUF`
(10_state.md R27, R29; 60_exceptions.md R230, R232). -/

namespace Sys2Proof.Machine

/-- A property of states holds after every step if the host's side of the state does not matter to it, every
command keeps it, and so do a refused command and `RESET`. -/
theorem step_keeps {P : State → Prop} (port : ∀ p s, P s → P (setPort p s))
    (response : ∀ r s, P s → P (setResponse r s))
    (command : ∀ i s t, i ≠ .nop → exec i s = .next t → P s → P t)
    (refused : ∀ s, P s → P (setStatus .illegalCommand (prologue s)))
    (reset : ∀ s, P s → P (resetBlock s)) :
    ∀ s t : State, P s → step s = .next t → P t := by
  intro s t hs h
  obtain ⟨-, rfl⟩ | ⟨e, rest, -, hcase⟩ := step_next h
  · exact hs
  · have hp : P (setPort rest s) := port rest s hs
    obtain ⟨bytes, i, u, -, -, hexec, rfl⟩ | ⟨bytes, u, -, rfl, rfl⟩ | ⟨r, rfl⟩ | ⟨-, rfl⟩ := hcase
    · refine response _ _ ?_
      by_cases hi : i = .nop
      · subst hi
        cases hexec
        exact hp
      · exact command i _ u hi hexec hp
    · exact response _ _ (refused _ hp)
    · exact response _ _ hp
    · exact reset _ hp

theorem statusCode_le (st : Status) : (statusCode st).toNat ≤ 7 := by
  cases st <;> decide

theorem statusCode_eq_zero {st : Status} : statusCode st = 0x00 ↔ st = .ok := by
  cases st <;> decide

/-- A result that obeys the rules of `Left.Fits` meets the invariant, whatever stood there before. -/
theorem Left.Fits.commonInv {l : Left} {i : Instr} {s : State} (h : l.Fits i s) : CommonInv (l.apply s) where
  obuf_wf := writeBytes_wf cleared_wf (by simpa [obufSize] using h.out_le)
  olen_le := (l.leaves h.out_le s).olen_eq ▸ h.out_le
  beyond_olen a ha := by
    rw [(l.leaves h.out_le s).olen_eq] at ha
    rw [(l.leaves h.out_le s).obuf_eq, List.getD_eq_default _ _ ha]
  status_le := statusCode_le l.status
  failure_empty hst := by
    obtain ⟨ht, hout⟩ := h.failure_empty (fun hok => hst (statusCode_eq_zero.2 hok))
    exact ⟨ht, by simp [hout]⟩
  truth_no_output ht := by simp [h.truth_empty ht]
  ham_disjoint := h.ham_disjoint

/-- A refused command leaves the result of a failure (30_encoding.md R74). -/
theorem refused_eq_apply (s : State) :
    setStatus .illegalCommand (prologue s) = (leftFail s .illegalCommand).apply s := rfl

theorem commonInv_refused (s : State) : CommonInv (setStatus .illegalCommand (prologue s)) := by
  rw [refused_eq_apply]
  exact (leftFail_fits (i := .nop) (by simp [Instr.opc])).commonInv

theorem commonInv_resetBlock (s : State) : CommonInv (resetBlock s) := by
  constructor <;> simp [Memory.wf]

/-- The invariant speaks of the common registers and `OBUF` only. -/
theorem CommonInv.setPort {s : State} (h : CommonInv s) (p : List HostEvent) : CommonInv (setPort p s) :=
  ⟨h.obuf_wf, h.olen_le, h.beyond_olen, h.status_le, h.failure_empty, h.truth_no_output, h.ham_disjoint⟩

theorem CommonInv.setResponse {s : State} (h : CommonInv s) (r : Option Response) : CommonInv (setResponse r s) :=
  ⟨h.obuf_wf, h.olen_le, h.beyond_olen, h.status_le, h.failure_empty, h.truth_no_output, h.ham_disjoint⟩

/-- Settles O14: a command leaves a result that fits (`exec_left`), and so does a refused one. -/
theorem stepKeepsCommonInv : Obligations.StepKeepsCommonInv :=
  step_keeps (fun p _ h => h.setPort p) (fun r _ h => h.setResponse r)
    (fun i s t hi hexec _ => by
      obtain ⟨l, rfl, hfits⟩ := exec_left hi hexec
      exact hfits.commonInv)
    (fun s _ => commonInv_refused s) (fun s _ => commonInv_resetBlock s)

end Sys2Proof.Machine
end

section
/-! PROOFS. The three unit groups (10_state.md R24 to R28): each is written by its own command only, is zero while its
`V` is 0, and else holds a decoded result. -/

namespace Sys2Proof.Machine

/-! ### Who writes a group (R28) -/

/-- No command writes another command's group. -/
theorem exec_keeps_groups {i : Instr} {s t : State} (h : exec i s = .next t) :
    (i.opc ≠ 0x40 → t.csbk = s.csbk) ∧ (i.opc ≠ 0x41 → t.dh = s.dh) ∧ (i.opc ≠ 0x30 → t.st = s.st) := by
  by_cases hn : i = .nop
  · subst hn
    cases h
    exact ⟨fun _ => rfl, fun _ => rfl, fun _ => rfl⟩
  · obtain ⟨l, rfl, hl⟩ := exec_left hn h
    exact ⟨hl.csbk_other, hl.dh_other, hl.st_other⟩

theorem exec_keeps_csbk {i : Instr} {s t : State} (h : exec i s = .next t) (hi : i.opc ≠ 0x40) :
    t.csbk = s.csbk := (exec_keeps_groups h).1 hi

theorem exec_keeps_dh {i : Instr} {s t : State} (h : exec i s = .next t) (hi : i.opc ≠ 0x41) : t.dh = s.dh :=
  (exec_keeps_groups h).2.1 hi

theorem exec_keeps_st {i : Instr} {s t : State} (h : exec i s = .next t) (hi : i.opc ≠ 0x30) : t.st = s.st :=
  (exec_keeps_groups h).2.2 hi

/-- Settles O19: for a command by `exec_keeps_groups`, and for a refused command from its prologue. -/
theorem unitGroupsPersist : Obligations.UnitGroupsPersist := by
  refine ⟨fun i s t h => exec_keeps_groups h, fun s t h => ?_, fun s t h => ?_⟩
  · cases h
    exact ⟨rfl, rfl, rfl⟩
  · cases h
    exact ⟨rfl, rfl, rfl⟩

/-! ### The slot type group (R26) -/

/-- A decoded slot type: `V` is 1, and `NERR` is the distance from the codeword of `CC` and `DT`. -/
theorem slotTypeOf_decoded {c : Config} {r : Codeword} {m : Byte} {n : Nat} (h : golayDecode c r = some (m, n)) :
    (slotTypeOf m n).nerr.toNat = dist r (golayCw c ((slotTypeOf m n).cc ++ (slotTypeOf m n).dt)) := by
  obtain ⟨hn, hle⟩ := golayDecode_some h
  have hm : (slotTypeOf m n).cc ++ (slotTypeOf m n).dt = m := by
    rw [slotTypeOf, BitVec.extractLsb'_append_extractLsb'_eq_extractLsb' (by omega), BitVec.extractLsb'_eq_self]
  rw [hm, ← hn, slotTypeOf, BitVec.toNat_ofNat, Nat.mod_eq_of_lt (by omega)]

/-- What `GOLAY.DECODE` leaves in its group. -/
theorem golayDecode_group {data : List Byte} {s t : State} (h : exec (.golayDecode data) s = .next t) :
    (t.status ≠ 0x00 ∧ t.st = .zero) ∨
    (t.status = 0x00 ∧ ∃ m n, golayDecode s.cfg (slotGet s.cfg data) = some (m, n) ∧ t.st = slotTypeOf m n) := by
  obtain ⟨-, rfl⟩ | ⟨-, ⟨-, rfl⟩ | ⟨m, n, hd, rfl⟩⟩ := golayDecode_next h
  · exact .inl ⟨by simp [statusCode], rfl⟩
  · exact .inl ⟨by simp [statusCode], rfl⟩
  · exact .inr ⟨rfl, m, n, hd, rfl⟩

theorem exec_keeps_stInv {i : Instr} {s t : State} (h : exec i s = .next t) (hs : StInv s) : StInv t := by
  by_cases hi : i.opc = 0x30
  · obtain ⟨data, rfl⟩ := opc_eq_golayDecode hi
    intro hv
    obtain ⟨-, hz⟩ | ⟨-, m, n, -, hg⟩ := golayDecode_group h
    · exact hz
    · rw [hg] at hv
      cases hv
  · unfold StInv
    rw [exec_keeps_st h hi]
    exact hs

/-- Settles O17: only `GOLAY.DECODE` writes the group, and it leaves zero or a slot type decoded within radius 3. -/
theorem stepKeepsStInv : Obligations.StepKeepsStInv := by
  refine ⟨fun _ => rfl, ?_, fun cc dt data s t h => exec_keeps_st h (by simp [Instr.opc]), fun data s t h => ?_⟩
  · exact step_keeps (fun _ _ h => h) (fun _ _ h => h) (fun i s t _ hexec hs => exec_keeps_stInv hexec hs)
      (fun _ h => h) (fun _ _ _ => rfl)
  · obtain ⟨hst, hz⟩ | ⟨hst, m, n, hd, hg⟩ := golayDecode_group h
    · exact ⟨fun _ => hz, fun h0 => absurd h0 hst⟩
    · refine ⟨fun h0 => absurd hst h0, fun _ => ?_⟩
      rw [hg]
      exact ⟨rfl, slotTypeOf_decoded hd⟩

/-! ### The data header group (R25) -/

theorem DhInv.of_eq {s t : State} (h : DhInv s) (hg : t.dh = s.dh) : DhInv t := by
  constructor <;> rw [hg]
  · exact h.invalid_zero
  · exact h.fields
  · exact h.trailer

theorem DhInv.of_zero {s : State} (hg : s.dh = .zero) : DhInv s := by
  constructor <;> simp [hg, DataHeader.zero]

/-- The fields of 12 bytes whose trailer matches (45_dataheader.md R210). -/
theorem DhInv.of_dhFields {s : State} {block : List Byte} (hlen : block.length = 12) (hc : crcVerify block = true)
    (hg : s.dh = dhFields block) : DhInv s := by
  have hw : 96 = 8 * block.length := by omega
  have hbit : ∀ j < 8, s.dh.data.getLsbD (88 + j) = (block.getD 0 0#8).getLsbD j := by
    intro j hj
    have h := getLsbD_reg hw (k := 0) (by omega) hj
    rw [hlen] at h
    rw [hg]
    exact h
  have hid : ∀ k, k + 2 < 12 → s.dh.data.extractLsb' (8 * (9 - k)) 24 = be24 block k := by
    intro k hk
    have h := extractLsb'_reg_be24 hw (k := k) (by omega)
    rw [hlen, show 12 - 1 - (k + 2) = 9 - k by omega] at h
    rw [hg]
    exact h
  constructor
  · intro hv
    rw [hg] at hv
    cases hv
  · intro _
    refine ⟨?_, ?_, ?_, ?_⟩
    · rw [hbit 7 (by omega), hg, dhFields]
    · rw [hbit 6 (by omega), hg, dhFields]
    · rw [hid 2 (by omega), hg, dhFields]
    · rw [hid 5 (by omega), hg, dhFields]
  · intro _
    have hread : bytesOfReg 12 s.dh.data = block := by
      have h := bytesOfReg_reg hw
      rw [hlen] at h
      rw [hg]
      exact h
    have htrailer := extractLsb'_reg_trailer hw (by omega) hc
    rw [crcCovered, hlen] at htrailer
    rw [hread, hg]
    exact htrailer

theorem length_ibufSlice {data : List Byte} {n : Nat} (h : n ≤ data.length) : (ibufSlice data 0 n).length = n := by
  simp [ibufSlice, h]

/-- What `DH.PUT` leaves in its group. -/
theorem dhPut_group {data : List Byte} {s t : State} (h : exec (.dhPut data) s = .next t) :
    (t.status ≠ 0x00 ∧ t.dh = .zero) ∨
    (t.status = 0x00 ∧ ∃ block, block.length = 12 ∧ crcVerify block = true ∧ t.dh = dhFields block) := by
  obtain ⟨-, rfl⟩ | ⟨hlen, ⟨-, rfl⟩ | ⟨hc, rfl⟩⟩ := dhPut_next h
  · exact .inl ⟨by simp [statusCode], rfl⟩
  · exact .inl ⟨by simp [statusCode], rfl⟩
  · exact .inr ⟨rfl, _, length_ibufSlice hlen, hc, rfl⟩

theorem exec_keeps_dhInv {i : Instr} {s t : State} (h : exec i s = .next t) (hs : DhInv s) : DhInv t := by
  by_cases hi : i.opc = 0x41
  · obtain ⟨data, rfl⟩ := opc_eq_dhPut hi
    obtain ⟨-, hz⟩ | ⟨-, block, hlen, hc, hg⟩ := dhPut_group h
    · exact .of_zero hz
    · exact .of_dhFields hlen hc hg
  · exact hs.of_eq (exec_keeps_dh h hi)

/-- Settles O16: only `DH.PUT` writes the group, and it leaves zero or the fields of a block that verified. -/
theorem stepKeepsDhInv : Obligations.StepKeepsDhInv := by
  refine ⟨.of_zero rfl, ?_, fun data s t h => ?_⟩
  · exact step_keeps (fun _ _ h => h.of_eq rfl) (fun _ _ h => h.of_eq rfl)
      (fun i s t _ hexec hs => exec_keeps_dhInv hexec hs) (fun _ h => h.of_eq rfl) (fun _ _ => .of_zero rfl)
  · obtain ⟨hst, hz⟩ | ⟨hst, block, -, -, hg⟩ := dhPut_group h
    · exact ⟨fun _ => hz, fun h0 => absurd h0 hst⟩
    · exact ⟨fun h0 => absurd hst h0, fun _ => by rw [hg, dhFields]⟩

/-! ### The CSBK group (R24) -/

theorem CsbkInv.of_eq {s t : State} (h : CsbkInv s) (hg : t.csbk = s.csbk) (hc : t.cfg = s.cfg) : CsbkInv t := by
  constructor <;> rw [hg]
  · exact h.gi_zero
  · exact h.cbf_zero
  · exact h.invalid_zero
  · rw [hc]; exact h.bsdwnact
  · rw [hc]; exact h.uuvreq
  · rw [hc]; exact h.supported
  · exact h.fields
  · exact h.trailer
  · exact h.corrected

theorem CsbkInv.of_zero {s : State} (hg : s.csbk = .zero) : CsbkInv s := by
  constructor <;> simp [hg, Csbk.zero]

/-- What every supported opcode populates, and what it leaves 0 (44_csbk.md R195, R196). -/
theorem csbkFields_common {c : Config} {p : List Byte} {g : Csbk} (h : csbkFields c p = some g) :
    g.v = true ∧ g.gi = false ∧ g.cbf = false ∧ g.csbko = csbkOpcode p ∧ g.fid = p.getD 1 0#8 ∧
      g.srcid = be24 p 7 ∧ g.data = BitVec.ofNat 112 (beNat (crcAppend p)) := by
  unfold csbkFields at h
  dsimp only at h
  split at h
  · cases h
    exact ⟨rfl, rfl, rfl, rfl, rfl, rfl, rfl⟩
  · split at h
    · cases h
      exact ⟨rfl, rfl, rfl, rfl, rfl, rfl, rfl⟩
    · cases h

/-- The opcode is supported and says which fields the group holds (44_csbk.md R195). -/
theorem csbkFields_opcode {c : Config} {p : List Byte} {g : Csbk} (h : csbkFields c p = some g) :
    (g.csbko = c.opcBsdwnact ∧ g.dstid = 0 ∧ g.ovcm = false ∧ g.bsid = be24 p 4) ∨
    (g.csbko ≠ c.opcBsdwnact ∧ g.csbko = c.opcUuvreq ∧ g.bsid = 0 ∧ g.dstid = be24 p 4 ∧
      g.ovcm = (p.getD 2 0#8).getLsbD 2) := by
  unfold csbkFields at h
  dsimp only at h
  split at h
  · cases h
    exact .inl ⟨by assumption, rfl, rfl, rfl⟩
  · split at h
    · cases h
      exact .inr ⟨by assumption, by assumption, rfl, rfl, rfl⟩
    · cases h

section
variable {p : List Byte} (hlen : p.length = 12)
include hlen

/-! The fields of `CSBK.DATA`, the payload and its trailer, as the register holds them. -/

theorem csbkData_width : 112 = 8 * (crcAppend p).length := by
  rw [length_crcAppend, hlen]

theorem bytesOfReg_csbkData : bytesOfReg 14 (BitVec.ofNat 112 (beNat (crcAppend p))) = crcAppend p := by
  have h := bytesOfReg_reg (csbkData_width hlen)
  rwa [length_crcAppend, hlen] at h

theorem extractLsb'_csbkData {k n : Nat} (hk : k < 12) (hn : n ≤ 8) :
    (BitVec.ofNat 112 (beNat (crcAppend p))).extractLsb' (8 * (13 - k)) n = (p.getD k 0#8).setWidth n := by
  have h := extractLsb'_reg (csbkData_width hlen) (k := k) (by rw [length_crcAppend]; omega) hn
  rwa [length_crcAppend, hlen, getD_crcAppend_of_lt (hlen ▸ hk)] at h

theorem getLsbD_csbkData {k j : Nat} (hk : k < 12) (hj : j < 8) :
    (BitVec.ofNat 112 (beNat (crcAppend p))).getLsbD (8 * (13 - k) + j) = (p.getD k 0#8).getLsbD j := by
  have h := getLsbD_reg (csbkData_width hlen) (k := k) (by rw [length_crcAppend]; omega) hj
  rwa [length_crcAppend, hlen, getD_crcAppend_of_lt (hlen ▸ hk)] at h

theorem be24_csbkData {k : Nat} (hk : k + 2 < 12) :
    (BitVec.ofNat 112 (beNat (crcAppend p))).extractLsb' (8 * (11 - k)) 24 = be24 p k := by
  have h := extractLsb'_reg_be24 (csbkData_width hlen) (k := k) (by rw [length_crcAppend]; omega)
  rwa [length_crcAppend, hlen, show 12 + 2 - 1 - (k + 2) = 11 - k by omega, be24,
    getD_crcAppend_of_lt (by omega), getD_crcAppend_of_lt (by omega), getD_crcAppend_of_lt (by omega)] at h

theorem trailer_csbkData : (BitVec.ofNat 112 (beNat (crcAppend p))).extractLsb' 0 16 = crc16 p := by
  rw [extractLsb'_reg_trailer (csbkData_width hlen) (by rw [length_crcAppend]; omega) (crcVerify_crcAppend p),
    crcCovered_crcAppend]

end

/-- The group of a 12-byte payload whose bytes the group correction leaves unchanged. -/
theorem CsbkInv.of_csbkFields {s : State} {p : List Byte} (hlen : p.length = 12)
    (hfix : ∀ k < 12, ham8Byte (p.getD k 0#8) = p.getD k 0#8) (hg : csbkFields s.cfg p = some s.csbk) :
    CsbkInv s := by
  obtain ⟨hv, hgi, hcbf, hop, hfid, hsrc, hdata⟩ := csbkFields_common hg
  constructor
  case gi_zero => exact hgi
  case cbf_zero => exact hcbf
  case invalid_zero => exact fun h0 => absurd hv (by simp [h0])
  case bsdwnact =>
    intro _ hb
    obtain ⟨-, hdst, hov, hbs⟩ | ⟨hne, -⟩ := csbkFields_opcode hg
    · exact ⟨hdst, hov, by rw [hbs, hdata]; exact (be24_csbkData hlen (k := 4) (by omega)).symm⟩
    · exact absurd hb hne
  case uuvreq =>
    intro _ _ hne
    obtain ⟨hb, -⟩ | ⟨-, -, hbs, hdst, hov⟩ := csbkFields_opcode hg
    · exact absurd hb hne
    · refine ⟨hbs, ?_, ?_⟩
      · rw [hdst, hdata]; exact (be24_csbkData hlen (k := 4) (by omega)).symm
      · rw [hov, hdata]; exact (getLsbD_csbkData hlen (k := 2) (j := 2) (by omega) (by omega)).symm
  case supported => exact fun _ => (csbkFields_opcode hg).imp (·.1) (·.2.1)
  case fields =>
    intro _
    rw [hop, hfid, hsrc, hdata]
    refine ⟨?_, ?_, ?_⟩
    · exact (extractLsb'_csbkData hlen (k := 0) (by omega) (by omega)).symm
    · exact ((extractLsb'_csbkData hlen (k := 1) (by omega) le_rfl).trans (BitVec.setWidth_eq _)).symm
    · exact (be24_csbkData hlen (k := 7) (by omega)).symm
  case trailer =>
    intro _
    rw [hdata, trailer_csbkData hlen, bytesOfReg_csbkData hlen, crcAppend, List.take_left' hlen]
  case corrected =>
    intro _ k hk
    rw [hdata, bytesOfReg_csbkData hlen, show (0 : Byte) = 0#8 from rfl, getD_crcAppend_of_lt (hlen ▸ hk)]
    exact hfix k hk

/-- What `CSBK.PUT` leaves in its group. -/
theorem csbkPut_group {data : List Byte} {s t : State} (h : exec (.csbkPut data) s = .next t) :
    (t.status ≠ 0x00 ∧ t.csbk = .zero) ∨
    (t.status = 0x00 ∧ csbkFields t.cfg (bptcDecode (padOrTruncate data)).payload = some t.csbk) := by
  obtain ⟨-, rfl⟩ | ⟨-, -, rfl⟩ | ⟨-, -, ⟨-, rfl⟩ | ⟨g, hg, rfl⟩⟩ := csbkPut_next h
  · exact .inl ⟨by simp [statusCode], rfl⟩
  · exact .inl ⟨by simp [statusCode], rfl⟩
  · exact .inl ⟨by simp [statusCode], rfl⟩
  · exact .inr ⟨rfl, hg⟩

theorem exec_keeps_csbkInv {i : Instr} {s t : State} (h : exec i s = .next t) (hs : CsbkInv s) : CsbkInv t := by
  by_cases hi : i.opc = 0x40
  · obtain ⟨data, rfl⟩ := opc_eq_csbkPut hi
    obtain ⟨-, hz⟩ | ⟨-, hg⟩ := csbkPut_group h
    · exact .of_zero hz
    · exact .of_csbkFields (length_payload _) (fun _ hk => ham8Byte_getD_payload _ hk) hg
  · exact hs.of_eq (exec_keeps_csbk h hi) (exec_cfg h)

/-- Settles O15: only `CSBK.PUT` writes the group, and it leaves zero or the fields of a corrected payload. -/
theorem stepKeepsCsbkInv : Obligations.StepKeepsCsbkInv := by
  refine ⟨.of_zero rfl, ?_, fun data s t h => ?_⟩
  · exact step_keeps (fun _ _ h => h.of_eq rfl rfl) (fun _ _ h => h.of_eq rfl rfl)
      (fun i s t _ hexec hs => exec_keeps_csbkInv hexec hs) (fun _ h => h.of_eq rfl rfl) (fun _ _ => .of_zero rfl)
  · obtain ⟨hst, hz⟩ | ⟨hst, hg⟩ := csbkPut_group h
    · exact ⟨fun _ => hz, fun h0 => absurd h0 hst⟩
    · exact ⟨fun h0 => absurd hst h0, fun _ => (csbkFields_common hg).1⟩

/-- Settles O13: the reset state is what `RESET` makes of it, and each of its groups is zero. -/
theorem resetStateIsSafe : Obligations.ResetStateIsSafe :=
  ⟨commonInv_resetBlock State.reset, .of_zero rfl, .of_zero rfl, fun _ => rfl⟩

end Sys2Proof.Machine
end

section
/-! PROOFS. The host's reads (10_state.md R31; 92_eei_decisions.md D4) and the reset values (R32). -/

namespace Sys2Proof.Machine

/-- The numbers of the 26 result registers (10_state.md R21). -/
def regNumbers : List Nat :=
  [0x00, 0x01, 0x02, 0x03, 0x04, 0x05, 0x10, 0x11, 0x12, 0x13, 0x14, 0x15, 0x16, 0x17, 0x18, 0x19,
    0x20, 0x21, 0x22, 0x23, 0x24, 0x25, 0x30, 0x31, 0x32, 0x33]

theorem readReg_eq_none {s : State} {n : Nat} (h : n ∉ regNumbers) : readReg s n = none := by
  unfold readReg
  split
  pick_goal -1
  · rfl
  all_goals exact absurd (by decide) h

theorem step_of_port {s : State} {e : HostEvent} {rest : List HostEvent} (hp : s.port = e :: rest) :
    step s = serve e (setPort rest s) := by
  simp [step, servePort, hp]

/-- A register does not depend on the host's side of the state. -/
theorem readReg_setPort (p : List HostEvent) (s : State) (n : Nat) : readReg (setPort p s) n = readReg s n := rfl

section
variable {s : State} {rest : List HostEvent}

theorem step_readReg {n : Nat} (hp : s.port = .readReg n :: rest) {v : BitVec 112} (hv : readReg s n = some v) :
    step s = .next { s with port := rest, response := some (.register v) } := by
  rw [step_of_port hp, serve, readReg_setPort, hv]
  rfl

theorem step_readReg_undefined {n : Nat} (hp : s.port = .readReg n :: rest) (hv : readReg s n = none) :
    step s = .refused (.undefinedRegister n) := by
  rw [step_of_port hp, serve, readReg_setPort, hv]

theorem step_readObuf {i : Nat} (hp : s.port = .readObuf i :: rest) (hi : i ≤ 256) :
    step s = .next { s with port := rest, response := some (.obufByte (Memory.read s.obuf i)) } := by
  rw [step_of_port hp, serve, readObuf, if_pos (by rw [obufSize]; omega)]
  rfl

theorem step_readObuf_undefined {i : Nat} (hp : s.port = .readObuf i :: rest) (hi : 256 < i) :
    step s = .refused (.undefinedObufIndex i) := by
  rw [step_of_port hp, serve, readObuf, if_neg (by rw [obufSize]; omega)]

end

/-- A read of a register leaves the state but for its response, and the same read again responds the same. -/
theorem readReg_twice {n : Nat} {rest : List HostEvent} {s t u : State}
    (hp : s.port = .readReg n :: .readReg n :: rest) (hs : step s = .next t) (ht : step t = .next u) :
    u.response = t.response := by
  cases hv : readReg s n with
  | none =>
    rw [step_readReg_undefined hp hv] at hs
    cases hs
  | some v =>
    rw [step_readReg hp hv] at hs
    cases hs
    cases ht.symm.trans (step_readReg rfl hv)
    rfl

/-- The same for a read of an output byte. -/
theorem readObuf_twice {i : Nat} {rest : List HostEvent} {s t u : State}
    (hp : s.port = .readObuf i :: .readObuf i :: rest) (hs : step s = .next t) (ht : step t = .next u) :
    u.response = t.response := by
  obtain hi | hi : i ≤ 256 ∨ 256 < i := by omega
  · rw [step_readObuf hp hi] at hs
    cases hs
    cases ht.symm.trans (step_readObuf rfl hi)
    rfl
  · rw [step_readObuf_undefined hp hi] at hs
    cases hs

/-- Settles O12: each row of the register table is what `readReg` gives, and a served read writes the response only. -/
theorem hostReadsHaveNoSideEffect : Obligations.HostReadsHaveNoSideEffect := by
  refine ⟨fun n rest s hp => ⟨fun v hv => step_readReg hp ?_, fun hn => step_readReg_undefined hp ?_⟩,
    fun i rest s hp => ⟨step_readObuf hp, step_readObuf_undefined hp⟩, ?_⟩
  · refine (fun hrows : ∀ r ∈ _, readReg s r.1 = some r.2 => hrows (n, v) hv) ?_
    simp [readReg]
  · exact readReg_eq_none hn
  · rintro e rest s t u ⟨n, rfl | rfl⟩ hp hs ht
    · exact readReg_twice hp hs ht
    · exact readObuf_twice hp hs ht

/-- Settles O11: the registers of the one reset state by evaluation, `OBUF` because nothing stands in it. -/
theorem resetValuesZero : Obligations.ResetValuesZero := by
  refine ⟨by decide, fun i hi => ?_⟩
  rw [readObuf, if_pos (by rw [obufSize]; omega)]
  rfl

end Sys2Proof.Machine
end

section
/-! PROOFS. What each command leaves in `CRCVAL` (10_state.md R33). -/

namespace Sys2Proof.Machine

/-- A command that checks an exact length and then emits leaves the 0 of its prologue. -/
theorem lenEmit_crcval {n : Nat} {data out : List Byte} {hamc hamu : BitVec 24} {s t : State}
    (h : requireLen n data (prologue s) (emit out (setHam hamc hamu (prologue s))) = .next t) : t.crcval = 0 := by
  obtain ⟨-, h⟩ | ⟨-, rfl⟩ := requireLen_next h
  · obtain ⟨-, rfl⟩ := emit_next h
    rfl
  · rfl

theorem wakeupOk_iff {c : Config} {data : List Byte} :
    wakeupOk c data = true ↔ data.getD 0 0 = c.tagData ∧ data.getD 1 0 = c.wakeupFlags := by
  simp only [wakeupOk, Bool.and_eq_true, beq_iff_eq]
  rfl

theorem csbkPut_crcval {data : List Byte} {s t : State} (h : exec (.csbkPut data) s = .next t) :
    t.crcval = if 2 ≤ data.length ∧ data.getD 0 0 = s.cfg.tagData ∧ data.getD 1 0 = s.cfg.wakeupFlags
      then crc16 (bptcDecode (padOrTruncate data)).payload else 0 := by
  simp only [← wakeupOk_iff]
  obtain ⟨hlen, rfl⟩ | ⟨-, hw, rfl⟩ | ⟨hlen, hw, ⟨-, rfl⟩ | ⟨g, -, rfl⟩⟩ := csbkPut_next h
  · rw [if_neg (fun hc => absurd hc.1 (by omega))]
    rfl
  · rw [if_neg (fun hc => absurd hc.2 (by simp [hw]))]
    rfl
  · rw [if_pos ⟨hlen, hw⟩]
    rfl
  · rw [if_pos ⟨hlen, hw⟩]
    rfl

/-- The bytes the trailer of a data header covers (45_dataheader.md R210). -/
theorem crcCovered_dhBlock {data : List Byte} (h : 12 ≤ data.length) :
    crcCovered (ibufSlice data 0 dhBlock) = data.take 10 := by
  simp [crcCovered, ibufSlice, dhBlock, h, List.take_take]

theorem dhPut_crcval {data : List Byte} {s t : State} (h : exec (.dhPut data) s = .next t) :
    t.crcval = if 12 ≤ data.length then crc16 (data.take 10) else 0 := by
  obtain ⟨hlen, rfl⟩ | ⟨hlen, ⟨-, rfl⟩ | ⟨-, rfl⟩⟩ := dhPut_next h
  · rw [if_neg (by omega)]
    rfl
  · rw [if_pos hlen, ← crcCovered_dhBlock hlen]
    rfl
  · rw [if_pos hlen, ← crcCovered_dhBlock hlen]
    rfl

theorem crcVerify_crcval {data : List Byte} {s t : State} (h : exec (.crcVerify data) s = .next t) :
    t.crcval = if 2 ≤ data.length then crc16 (data.take (data.length - 2)) else 0 := by
  obtain ⟨hlen, h⟩ | ⟨hlen, rfl⟩ := requireMinLen_next h
  · cases h
    rw [if_pos hlen]
    rfl
  · rw [if_neg (by omega)]
    rfl

theorem rsCheck_crcval {data : List Byte} {s t : State} (h : exec (.rsCheck data) s = .next t) : t.crcval = 0 := by
  obtain ⟨-, h⟩ | ⟨-, rfl⟩ := requireLen_next h
  · cases h
    rfl
  · rfl

theorem golayDecode_crcval {data : List Byte} {s t : State} (h : exec (.golayDecode data) s = .next t) :
    t.crcval = 0 := by
  obtain ⟨-, rfl⟩ | ⟨-, ⟨-, rfl⟩ | ⟨m, n, -, rfl⟩⟩ := golayDecode_next h
  · rfl
  · rfl
  · rfl

/-- Settles O23: the four commands that compute a CRC one by one; the others leave the 0 of their prologue. -/
theorem crcvalSetByFourCommands : Obligations.CrcvalSetByFourCommands := by
  intro i s t hi h
  cases i with
  | nop => exact absurd rfl hi
  | crcAppend data =>
    obtain ⟨-, rfl⟩ := emit_next h
    rfl
  | crcVerify data => simpa [Instr.opc, Instr.data] using crcVerify_crcval h
  | csbkPut data => simpa [Instr.opc, Instr.data] using csbkPut_crcval h
  | dhPut data => simpa [Instr.opc, Instr.data] using dhPut_crcval h
  | rsCheck data => exact rsCheck_crcval h
  | golayDecode data => exact golayDecode_crcval h
  | bptcExtract data => exact lenEmit_crcval (hamc := 0) (hamu := 0) h
  | bptcDeint data => exact lenEmit_crcval (hamc := 0) (hamu := 0) h
  | bptcIntlv data => exact lenEmit_crcval (hamc := 0) (hamu := 0) h
  | bptcHam8 data => exact lenEmit_crcval h
  | bptcDecode data => exact lenEmit_crcval h
  | gfMul data => exact lenEmit_crcval (hamc := 0) (hamu := 0) h
  | rsEncode data => exact lenEmit_crcval (hamc := 0) (hamu := 0) h
  | golayEncode cc dt data => exact lenEmit_crcval (hamc := 0) (hamu := 0) h

end Sys2Proof.Machine
end

section
/-! PROOFS. Two-state independence (10_state.md R20): the prologue leaves two states of one configuration alike in
everything a command's result is made of, and every operation after it keeps them alike. -/

namespace Sys2Proof.Machine

/-- Two states alike in the parameters, the common registers, `OBUF`, and the unit group the command i writes. -/
structure SameResult (i : Instr) (a b : State) : Prop where
  cfg_eq : a.cfg = b.cfg
  status_eq : a.status = b.status
  t_eq : a.t = b.t
  olen_eq : a.olen = b.olen
  hamc_eq : a.hamc = b.hamc
  hamu_eq : a.hamu = b.hamu
  crcval_eq : a.crcval = b.crcval
  obuf_eq : a.obuf = b.obuf
  csbk_eq : i.opc = 0x40 → a.csbk = b.csbk
  dh_eq : i.opc = 0x41 → a.dh = b.dh
  st_eq : i.opc = 0x30 → a.st = b.st

/-- Two outcomes that leave states alike wherever both are next states. -/
def SameOutcome (i : Instr) (p q : Result) : Prop :=
  ∀ t₁ t₂, p = .next t₁ → q = .next t₂ → SameResult i t₁ t₂

section
variable {i : Instr} {a b : State}

theorem SameResult.setStatus (h : SameResult i a b) (x : Status) :
    SameResult i (setStatus x a) (setStatus x b) := { h with status_eq := rfl }

theorem SameResult.setTruth (h : SameResult i a b) (x : Bool) :
    SameResult i (setTruth x a) (setTruth x b) := { h with t_eq := rfl }

theorem SameResult.setHam (h : SameResult i a b) (x y : BitVec 24) :
    SameResult i (setHam x y a) (setHam x y b) := { h with hamc_eq := rfl, hamu_eq := rfl }

theorem SameResult.setCrcval (h : SameResult i a b) (x : Crc) :
    SameResult i (setCrcval x a) (setCrcval x b) := { h with crcval_eq := rfl }

theorem SameResult.setCsbk (h : SameResult i a b) (x : Csbk) :
    SameResult i (setCsbk x a) (setCsbk x b) := { h with csbk_eq := fun _ => rfl }

theorem SameResult.setDh (h : SameResult i a b) (x : DataHeader) :
    SameResult i (setDh x a) (setDh x b) := { h with dh_eq := fun _ => rfl }

theorem SameResult.setSt (h : SameResult i a b) (x : SlotType) :
    SameResult i (setSt x a) (setSt x b) := { h with st_eq := fun _ => rfl }

theorem SameResult.writeOut (h : SameResult i a b) (out : List Byte) :
    SameResult i (writeOut out a) (writeOut out b) :=
  { h with olen_eq := rfl, obuf_eq := congrArg (Memory.writeBytes · 0 out) h.obuf_eq }

theorem SameResult.raise (h : SameResult i a b) (x : Status) : SameOutcome i (raise x a) (raise x b) := by
  rintro _ _ ⟨⟩ ⟨⟩
  exact h.setStatus x

theorem SameResult.complete (h : SameResult i a b) : SameOutcome i (complete a) (complete b) := by
  rintro _ _ ⟨⟩ ⟨⟩
  exact h.setStatus .ok

theorem SameResult.emit (h : SameResult i a b) (out : List Byte) : SameOutcome i (emit out a) (emit out b) := by
  intro t₁ t₂ h₁ h₂
  obtain ⟨-, rfl⟩ := emit_next h₁
  obtain ⟨-, rfl⟩ := emit_next h₂
  exact (h.writeOut out).setStatus .ok

theorem SameResult.requireLen (h : SameResult i a b) {n : Nat} {data : List Byte} {p q : Result}
    (hr : SameOutcome i p q) : SameOutcome i (requireLen n data a p) (requireLen n data b q) := by
  by_cases hn : data.length = n
  · simpa [hn] using hr
  · simpa [hn] using h.raise .invalidLength

theorem SameResult.requireMinLen (h : SameResult i a b) {n : Nat} {data : List Byte} {p q : Result}
    (hr : SameOutcome i p q) : SameOutcome i (requireMinLen n data a p) (requireMinLen n data b q) := by
  unfold Machine.requireMinLen
  split
  · exact hr
  · exact h.raise .dataTooShort

end

section
variable {s₁ s₂ : State} (hc : s₁.cfg = s₂.cfg)
include hc

theorem sameResult_prologue {i : Instr} (hi : i.opc ≠ 0x40 ∧ i.opc ≠ 0x41 ∧ i.opc ≠ 0x30) :
    SameResult i (prologue s₁) (prologue s₂) :=
  ⟨hc, rfl, rfl, rfl, rfl, rfl, rfl, rfl, fun h => absurd h hi.1, fun h => absurd h hi.2.1,
    fun h => absurd h hi.2.2⟩

theorem sameResult_prologueCsbk (data : List Byte) :
    SameResult (.csbkPut data) (prologueCsbk s₁) (prologueCsbk s₂) :=
  ⟨hc, rfl, rfl, rfl, rfl, rfl, rfl, rfl, fun _ => rfl, fun h => absurd h (by simp [Instr.opc]),
    fun h => absurd h (by simp [Instr.opc])⟩

theorem sameResult_prologueDh (data : List Byte) : SameResult (.dhPut data) (prologueDh s₁) (prologueDh s₂) :=
  ⟨hc, rfl, rfl, rfl, rfl, rfl, rfl, rfl, fun h => absurd h (by simp [Instr.opc]), fun _ => rfl,
    fun h => absurd h (by simp [Instr.opc])⟩

theorem sameResult_prologueSt (data : List Byte) :
    SameResult (.golayDecode data) (prologueSt s₁) (prologueSt s₂) :=
  ⟨hc, rfl, rfl, rfl, rfl, rfl, rfl, rfl, fun h => absurd h (by simp [Instr.opc]),
    fun h => absurd h (by simp [Instr.opc]), fun _ => rfl⟩

/-- A command that checks an exact length and then emits. -/
theorem lenEmit_sameOutcome {i : Instr} (hi : i.opc ≠ 0x40 ∧ i.opc ≠ 0x41 ∧ i.opc ≠ 0x30) (n : Nat)
    (data out : List Byte) (hamc hamu : BitVec 24) :
    SameOutcome i (requireLen n data (prologue s₁) (emit out (setHam hamc hamu (prologue s₁))))
      (requireLen n data (prologue s₂) (emit out (setHam hamc hamu (prologue s₂)))) := by
  have hp := sameResult_prologue hc hi
  exact hp.requireLen ((hp.setHam hamc hamu).emit out)

theorem golayDecode_sameOutcome (data : List Byte) :
    SameOutcome (.golayDecode data) (execGolayDecode data s₁) (execGolayDecode data s₂) := by
  have hp := sameResult_prologueSt hc data
  unfold execGolayDecode
  refine hp.requireLen ?_
  rw [hc]
  split
  · exact hp.raise _
  · exact (hp.setSt _).emit _

theorem csbkPut_sameOutcome (data : List Byte) :
    SameOutcome (.csbkPut data) (execCsbkPut data s₁) (execCsbkPut data s₂) := by
  have hp := sameResult_prologueCsbk hc data
  have hr := (hp.setHam (bptcDecode (padOrTruncate data)).hamc (bptcDecode (padOrTruncate data)).hamu).setCrcval
    (crc16 (bptcDecode (padOrTruncate data)).payload)
  unfold execCsbkPut
  refine hp.requireMinLen ?_
  rw [hc]
  split
  · exact hp.raise _
  · split
    · exact hr.raise _
    · split
      · exact hr.raise _
      · exact (hr.setCsbk _).emit _

theorem dhPut_sameOutcome (data : List Byte) :
    SameOutcome (.dhPut data) (execDhPut data s₁) (execDhPut data s₂) := by
  have hp := sameResult_prologueDh hc data
  unfold execDhPut
  refine hp.requireMinLen ?_
  split
  · exact (hp.setCrcval _).raise _
  · exact ((hp.setCrcval _).setDh _).emit _

theorem exec_sameOutcome {i : Instr} (hi : i ≠ .nop) : SameOutcome i (exec i s₁) (exec i s₂) := by
  cases i with
  | nop => exact absurd rfl hi
  | golayDecode data => exact golayDecode_sameOutcome hc data
  | csbkPut data => exact csbkPut_sameOutcome hc data
  | dhPut data => exact dhPut_sameOutcome hc data
  | crcAppend data => exact ((sameResult_prologue hc (by simp [Instr.opc])).setCrcval _).emit _
  | crcVerify data =>
    have hp := sameResult_prologue hc (i := .crcVerify data) (by simp [Instr.opc])
    exact hp.requireMinLen ((hp.setCrcval _).setTruth _).complete
  | rsCheck data =>
    have hp := sameResult_prologue hc (i := .rsCheck data) (by simp [Instr.opc])
    exact hp.requireLen (hp.setTruth _).complete
  | golayEncode cc dt data =>
    unfold exec execGolayEncode
    rw [hc]
    exact lenEmit_sameOutcome hc (i := .golayEncode cc dt data) (by simp [Instr.opc]) slotFrame data _ 0 0
  | bptcHam8 data => exact lenEmit_sameOutcome hc (by simp [Instr.opc]) 1 data _ _ _
  | bptcDecode data => exact lenEmit_sameOutcome hc (by simp [Instr.opc]) bptcBytes data _ _ _
  | bptcExtract data => exact lenEmit_sameOutcome hc (by simp [Instr.opc]) bptcBytes data _ 0 0
  | bptcDeint data => exact lenEmit_sameOutcome hc (by simp [Instr.opc]) packedBytes data _ 0 0
  | bptcIntlv data => exact lenEmit_sameOutcome hc (by simp [Instr.opc]) packedBytes data _ 0 0
  | gfMul data => exact lenEmit_sameOutcome hc (by simp [Instr.opc]) 2 data _ 0 0
  | rsEncode data => exact lenEmit_sameOutcome hc (by simp [Instr.opc]) 9 data _ 0 0

end

/-- Settles O8: the fields of `SameResult`, which a command establishes (`exec_sameOutcome`). -/
theorem resultIndependentOfOldState : Obligations.ResultIndependentOfOldState := by
  intro i s₁ s₂ t₁ t₂ hi hc h₁ h₂
  obtain ⟨-, hstatus, ht, holen, hhamc, hhamu, hcrcval, hobuf, hcsbk, hdh, hst⟩ :=
    exec_sameOutcome hc hi t₁ t₂ h₁ h₂
  exact ⟨hstatus, ht, holen, hhamc, hhamu, hcrcval, hobuf, hcsbk, hdh, hst⟩

end Sys2Proof.Machine
end

section
/-! PROOFS. Every command that has an encoding runs to a next state (60_exceptions.md R235, R265), and what decodes has
one (30_encoding.md R71); so a step is the decoded command and its response (20_memory.md R57). -/

namespace Sys2Proof.Machine

/-! ### Completion -/

/-- The run of a command ends in a next state: it neither stops with a fault nor is refused. -/
def Completes (r : Result) : Prop := ∃ t, r = .next t

theorem completes_next (t : State) : Completes (.next t) := ⟨t, rfl⟩

theorem completes_emit {out : List Byte} (h : out.length ≤ obufSize) (s : State) : Completes (emit out s) :=
  ⟨_, emit_of_le h s⟩

theorem Completes.requireLen {r : Result} (h : Completes r) (n : Nat) (data : List Byte) (s : State) :
    Completes (requireLen n data s r) := by
  unfold Machine.requireLen
  split
  · exact h
  · exact completes_next _

theorem Completes.requireMinLen {n : Nat} {data : List Byte} {r : Result} (h : n ≤ data.length → Completes r)
    (s : State) : Completes (requireMinLen n data s r) := by
  unfold Machine.requireMinLen
  split
  · exact h ‹_›
  · exact completes_next _

/-- A command that checks an exact length and then emits an output that fits. -/
theorem completes_lenEmit {out : List Byte} (h : out.length ≤ obufSize) (n : Nat) (data : List Byte) (s u : State) :
    Completes (requireLen n data s (emit out u)) :=
  (completes_emit h u).requireLen n data s

theorem golayDecode_completes (data : List Byte) (s : State) : Completes (execGolayDecode data s) := by
  refine Completes.requireLen ?_ _ _ _
  split
  · exact completes_next _
  · exact completes_emit (by simp [obufSize]) _

theorem csbkPut_completes (data : List Byte) (s : State) : Completes (execCsbkPut data s) := by
  refine Completes.requireMinLen (fun _ => ?_) _
  split
  · exact completes_next _
  · split
    · exact completes_next _
    · split
      · exact completes_next _
      · exact completes_emit (by simp [obufSize]) _

theorem dhPut_completes (data : List Byte) (s : State) : Completes (execDhPut data s) := by
  refine Completes.requireMinLen (fun hlen => ?_) _
  split
  · exact completes_next _
  · exact completes_emit (by rw [length_ibufSlice hlen]; decide) _

/-- Every output but that of `CRC.APPEND` has a fixed length, so only an appended trailer can overrun `OBUF`. -/
theorem exec_completes {i : Instr} (hi : ∀ data, i = .crcAppend data → data.length ≤ 255) (s : State) :
    Completes (exec i s) := by
  cases i with
  | nop => exact completes_next _
  | crcAppend data =>
    have hlen := hi data rfl
    exact completes_emit (by simp [obufSize]; omega) _
  | crcVerify data => exact Completes.requireMinLen (fun _ => completes_next _) _
  | rsCheck data => exact (completes_next _).requireLen _ _ _
  | golayDecode data => exact golayDecode_completes data s
  | csbkPut data => exact csbkPut_completes data s
  | dhPut data => exact dhPut_completes data s
  | bptcExtract _ | bptcDeint _ | bptcIntlv _ | bptcHam8 _ | bptcDecode _ | gfMul _ | rsEncode _ | golayEncode _ _ _ =>
    exact completes_lenEmit (by simp [obufSize]) _ _ _ _

theorem exec_completes_of_wf {i : Instr} (h : i.wf) (s : State) : Completes (exec i s) :=
  exec_completes (by rintro data rfl; exact h) s

/-! ### What decodes is well-formed (30_encoding.md R71) -/

/-- A row of the opcode map makes a command of the frame's data, or of none (`NOP`). -/
theorem length_data_build_le {r : OpcodeRow} (hr : r ∈ opcodeRows) (arg : Byte) (data : List Byte) :
    (r.build arg data).data.length ≤ data.length := by
  revert r
  simp [opcodeRows, Instr.data]

theorem decodeFields_ok {opc arg : Byte} {data : List Byte} {i : Instr} (h : decodeFields opc arg data = .ok i) :
    ∃ r ∈ opcodeRows, i = r.build arg data := by
  unfold decodeFields at h
  split at h
  · cases h
  · rename_i r hrow
    split at h
    · cases h
    · split at h
      · cases h
      · cases h
        exact ⟨r, List.mem_of_find?_eq_some hrow, rfl⟩

theorem decode_ok_frame {bytes : List Byte} {i : Instr} (h : decode bytes = .ok i) :
    ∃ opc arg len data, bytes = opc :: arg :: len :: data ∧ data.length = len.toNat ∧
      decodeFields opc arg data = .ok i := by
  unfold decode at h
  split at h
  · split at h
    · cases h
    · split at h
      · cases h
      · exact ⟨_, _, _, _, rfl, by omega, h⟩
  · cases h

theorem decode_ok_wf {bytes : List Byte} {i : Instr} (h : decode bytes = .ok i) : i.wf := by
  obtain ⟨opc, arg, len, data, -, hlen, hfields⟩ := decode_ok_frame h
  obtain ⟨r, hr, rfl⟩ := decodeFields_ok hfields
  calc (r.build arg data).data.length
    _ ≤ data.length := length_data_build_le hr arg data
    _ = len.toNat := hlen
    _ ≤ maxLen := Nat.le_of_lt_succ len.isLt

/-! ### The step of a decoded command -/

theorem step_of_decode {bytes : List Byte} {i : Instr} {rest : List HostEvent} {s : State}
    (hp : s.port = .command bytes :: rest) (hd : decode bytes = .ok i) :
    step s = respond (exec i (setPort rest s)) := by
  simp [step_of_port hp, serve, issueCommand, hd]

/-- Settles O6: what decodes is well-formed (`decode_ok_wf`), so its run completes, and the step is that run with its
response (`step_of_decode`). -/
theorem stepRunsDecodedCommand : Obligations.StepRunsDecodedCommand := by
  intro bytes i rest s hp hd
  obtain ⟨t, ht⟩ := exec_completes_of_wf (decode_ok_wf hd) (setPort rest s)
  refine ⟨t, ht, ?_⟩
  rw [step_of_decode hp hd, ht]
  rfl

end Sys2Proof.Machine
end

section
/-! PROOFS. Several blocks (20_memory.md R61): a step of one is one update of the list at its index
(`stepInstance_of_next`). -/

namespace Sys2Proof.Machine

/-- Blocks of one configuration still share it after a step of one of them. -/
theorem cfg_shared_set {blocks : List State} {k : Nat} {s t : State} {c : Config} (hk : blocks[k]? = some s)
    (h : step s = .next t) (hc : ∀ b ∈ blocks, b.cfg = c) : ∀ b ∈ blocks.set k t, b.cfg = c := by
  intro b hb
  obtain hb | rfl := List.mem_or_eq_of_mem_set hb
  · exact hc b hb
  · exact (stepKeepsConfig s b h).trans (hc s (List.mem_of_getElem? hk))

/-- A block steps by its own state whatever another block's has become. -/
theorem stepInstance_set_of_ne {blocks : List State} {k j : Nat} {a s' a' : State} (hjk : j ≠ k)
    (hj : blocks[j]? = some a) (ha : step a = .next a') :
    stepInstance j (blocks.set k s') = .next ((blocks.set k s').set j a') :=
  stepInstance_of_next (by rwa [List.getElem?_set_ne hjk.symm]) ha

/-- Settles O57: the step of a block is one update of the list, updates at two indices commute, and a step keeps the
parameters (O18). -/
theorem instancesShareNothing : Obligations.InstancesShareNothing := by
  intro blocks k s hk
  have hlt : k < blocks.length := (List.getElem?_eq_some_iff.mp hk).1
  refine ⟨fun t ht => ?_, fun r hr => stepInstance_of_refused hk hr, fun j a s' a' hjk hj hs ha => ?_⟩
  · exact ⟨blocks.set k t, stepInstance_of_next hk ht, List.length_set, List.getElem?_set_self hlt,
      stepKeepsConfig s t ht, fun j hj => List.getElem?_set_ne hj.symm, fun c hc => cfg_shared_set hk ht hc⟩
  · have hjlt : j < blocks.length := (List.getElem?_eq_some_iff.mp hj).1
    have hcomm : (blocks.set k s').set j a' = (blocks.set j a').set k s' := List.set_comm _ _ hjk.symm
    refine ⟨blocks.set k s', blocks.set j a', (blocks.set k s').set j a', stepInstance_of_next hk hs,
      stepInstance_set_of_ne hjk hj ha, stepInstance_of_next hj ha, ?_, ?_, ?_⟩
    · rw [hcomm]
      exact stepInstance_set_of_ne hjk.symm hk hs
    · rw [hcomm, List.getElem?_set_self (by simpa using hlt)]
    · rw [List.getElem?_set_self (by simpa using hjlt)]

end Sys2Proof.Machine
end

section
/-! PROOFS. The decoder (30_encoding.md): the opcode map of R73, the fields that R74 does not refuse
(`decodeFields_eq_ok_iff`) and the frame of R71, each said once. -/

namespace Sys2Proof.Machine

/-! ### The opcode map (R72, R73) -/

/-- The map lists the fifteen operation codes, in the order of R73. -/
theorem map_opc_opcodeRows : opcodeRows.map OpcodeRow.opc = definedOpcs := rfl

theorem rowOf_some {opc : Byte} {r : OpcodeRow} (h : rowOf opc = some r) : r ∈ opcodeRows ∧ r.opc = opc :=
  ⟨List.mem_of_find?_eq_some h, by simpa using List.find?_some h⟩

theorem exists_rowOf_iff {opc : Byte} : (∃ r, rowOf opc = some r) ↔ opc ∈ definedOpcs := by
  rw [← map_opc_opcodeRows, ← Option.isSome_iff_exists, rowOf, List.find?_isSome, List.mem_map]
  simp only [beq_iff_eq]

section
variable {r : OpcodeRow} (hr : r ∈ opcodeRows) {arg : Byte} {data : List Byte}
include hr

/-- The one format I command is `GOLAY.ENCODE` (R72). -/
theorem format_eq_n_iff : r.format = .n ↔ r.opc ≠ 0x31 := by
  revert r
  simp [opcodeRows]

theorem opc_build : (r.build arg data).opc = r.opc := by
  revert r
  simp [opcodeRows, Instr.opc]

/-- `ARG` is 0x00 in format N, and its two nibbles are the operands of format I (R72). -/
theorem arg_build (h : r.format = .n → arg = 0x00) : (r.build arg data).arg = arg := by
  by_cases hf : r.format = .n
  · obtain rfl := h hf
    revert r
    simp [opcodeRows, Instr.arg]
  · have hnibbles : arg.extractLsb' 4 4 ++ arg.extractLsb' 0 4 = arg :=
      BitVec.extractLsb'_append_extractLsb' (w := 4) (len := 4)
    revert r
    simp [opcodeRows, Instr.arg, hnibbles]

theorem data_build (h : r.opc = 0x00 → data = []) : (r.build arg data).data = data := by
  revert r
  simp +contextual [opcodeRows, Instr.data]

end

/-! ### The fields of a well-framed command (R74) -/

/-- The fields make a command exactly when their row exists and neither its format nor `NOP` refuses them. -/
theorem decodeFields_eq_ok_iff {opc arg : Byte} {data : List Byte} {i : Instr} :
    decodeFields opc arg data = .ok i ↔ ∃ r, rowOf opc = some r ∧ (r.format = .n → arg = 0x00) ∧
      (r.opc = 0x00 → data = []) ∧ r.build arg data = i := by
  unfold decodeFields
  cases rowOf opc with
  | none => simp
  | some r =>
    dsimp only
    split
    · simp_all
    · split
      · simp_all
      · simp_all

theorem decodeFields_error {opc arg : Byte} {data : List Byte} {e : DecodeError}
    (h : decodeFields opc arg data = .error e) : e = .unknownOpc ∨ e = .reservedArg ∨ e = .nopWithData := by
  unfold decodeFields at h
  split at h
  · cases h
    exact .inl rfl
  · split at h
    · cases h
      exact .inr (.inl rfl)
    · split at h
      · cases h
        exact .inr (.inr rfl)
      · cases h

/-- The fields of a command make it. -/
theorem decodeFields_fields (i : Instr) : decodeFields i.opc i.arg i.data = .ok i := by
  cases i with
  | golayEncode cc dt data =>
    have hcc : (cc ++ dt).extractLsb' 4 4 = cc := BitVec.extractLsb'_append_eq_left
    have hdt : (cc ++ dt).extractLsb' 0 4 = dt := BitVec.extractLsb'_append_eq_right
    calc decodeFields 0x31 (cc ++ dt) data
      _ = .ok (.golayEncode ((cc ++ dt).extractLsb' 4 4) ((cc ++ dt).extractLsb' 0 4) data) := rfl
      _ = .ok (.golayEncode cc dt data) := by rw [hcc, hdt]
  | _ => rfl

/-- A command has the fields it was made of. -/
theorem fields_of_decodeFields {opc arg : Byte} {data : List Byte} {i : Instr}
    (h : decodeFields opc arg data = .ok i) : i.opc = opc ∧ i.arg = arg ∧ i.data = data := by
  obtain ⟨r, hrow, harg, hdata, rfl⟩ := decodeFields_eq_ok_iff.1 h
  obtain ⟨hr, rfl⟩ := rowOf_some hrow
  exact ⟨opc_build hr, arg_build hr harg, data_build hr hdata⟩

/-- The fields make a command exactly outside the three cases of R74. -/
theorem exists_decodeFields_ok_iff {opc arg : Byte} {data : List Byte} :
    (∃ i, decodeFields opc arg data = .ok i) ↔
      opc ∈ definedOpcs ∧ (opc = 0x31 ∨ arg = 0x00) ∧ (opc = 0x00 → data.length = 0) := by
  simp only [decodeFields_eq_ok_iff, ← exists_rowOf_iff, List.length_eq_zero_iff]
  constructor
  · rintro ⟨i, r, hrow, harg, hdata, -⟩
    obtain ⟨hr, rfl⟩ := rowOf_some hrow
    exact ⟨⟨r, hrow⟩, or_iff_not_imp_left.2 fun h => harg ((format_eq_n_iff hr).2 h), hdata⟩
  · rintro ⟨⟨r, hrow⟩, harg, hdata⟩
    obtain ⟨hr, rfl⟩ := rowOf_some hrow
    exact ⟨_, r, hrow, fun h => harg.resolve_left ((format_eq_n_iff hr).1 h), hdata, rfl⟩

/-! ### The frame (R70, R71) -/

theorem decode_wellFramed (opc arg : Byte) {data : List Byte} (h : data.length ≤ 255) :
    decode (opc :: arg :: BitVec.ofNat 8 data.length :: data) = decodeFields opc arg data := by
  have hlen : (BitVec.ofNat 8 data.length).toNat = data.length := by
    rw [BitVec.toNat_ofNat]
    omega
  simp [decode, hlen]

/-- A refusal of R74 is not one of R71. -/
theorem decodeFields_ne_illFramed (opc arg : Byte) (data : List Byte) :
    decodeFields opc arg data ≠ .error .truncatedCommand ∧ decodeFields opc arg data ≠ .error .trailingBytes :=
  ⟨fun h => by simpa using decodeFields_error h, fun h => by simpa using decodeFields_error h⟩

/-- The two refusals of R71 are two comparisons of the length with `3 + LEN`. -/
theorem decode_illFramed_iff (bytes : List Byte) :
    (decode bytes = .error .truncatedCommand ↔
      bytes.length < 3 ∨ bytes.length < 3 + (bytes.getD 2 0).toNat) ∧
    (decode bytes = .error .trailingBytes ↔
      3 ≤ bytes.length ∧ 3 + (bytes.getD 2 0).toNat < bytes.length) := by
  match bytes with
  | [] | [_] | [_, _] => simp [decode]
  | opc :: arg :: len :: data =>
    have hlen : (opc :: arg :: len :: data).length = 3 + data.length := by
      simp only [List.length_cons]
      omega
    rw [hlen, decode]
    split
    · simp
      omega
    · split
      · simp
        omega
      · simp [decodeFields_ne_illFramed]
        omega

end Sys2Proof.Machine
end

section
/-! PROOFS. The round trips of the encoding and the refused byte sequences (30_encoding.md R70 to R74, R77). -/

namespace Sys2Proof.Machine

/-- Settles O1: an encoding is well framed (`decode_wellFramed`), and the fields of a command make it. -/
theorem decodeEncodeRoundTrip : Obligations.DecodeEncodeRoundTrip := by
  intro i hi
  calc decode (encode i)
    _ = decodeFields i.opc i.arg i.data := decode_wellFramed _ _ hi
    _ = .ok i := decodeFields_fields i

/-- Settles O2: a command has the fields of its frame, and `LEN` is the number of its data bytes. -/
theorem encodeDecodeRoundTrip : Obligations.EncodeDecodeRoundTrip := by
  intro bytes i h
  refine ⟨?_, decode_ok_wf h⟩
  obtain ⟨opc, arg, len, data, rfl, hlen, hfields⟩ := decode_ok_frame h
  obtain ⟨rfl, rfl, rfl⟩ := fields_of_decodeFields hfields
  rw [encode, hlen, BitVec.ofNat_toNat, BitVec.setWidth_eq]

/-- Settles O3: the decoder's two length tests, which the port answers by name; and a command's bytes are its encoding
(O2), of at most 258 bytes. -/
theorem illFramedBytesRefused : Obligations.IllFramedBytesRefused := by
  refine ⟨decode_illFramed_iff, fun bytes rest s hp => ?_, fun bytes i h => ?_⟩
  · rw [step_of_port hp, serve, issueCommand]
    exact ⟨fun h => by rw [h], fun h => by rw [h]⟩
  · obtain ⟨rfl, hwf⟩ := encodeDecodeRoundTrip bytes i h
    obtain ⟨_, _, _, -, -, -, hmax⟩ := Laws.Framing.of_wf i hwf
    exact hmax

/-- A well-framed command whose fields make no command is refused with a step (R74). -/
theorem issueCommand_refused {opc arg : Byte} {data : List Byte} (hlen : data.length ≤ 255)
    (h : ¬ ∃ i, decodeFields opc arg data = .ok i) (s : State) :
    issueCommand (opc :: arg :: BitVec.ofNat 8 data.length :: data) s = respond (refuseCommand s) := by
  rw [issueCommand, decode_wellFramed _ _ hlen]
  cases hd : decodeFields opc arg data with
  | ok i => exact absurd ⟨i, hd⟩ h
  | error e => obtain rfl | rfl | rfl := decodeFields_error hd <;> rfl

/-- Settles O4: the three cases are those in which the fields make no command (`exists_decodeFields_ok_iff`), and the
step then leaves the prologue with `IllegalCommand`. -/
theorem refusedCommandsExactly : Obligations.RefusedCommandsExactly := by
  intro opc arg data rest s hlen hp
  refine ⟨fun hcase => ?_, fun hopc harg hdata => ?_⟩
  · have hno : ¬ ∃ i, decodeFields opc arg data = .ok i := by
      rw [exists_decodeFields_ok_iff]
      rintro ⟨hopc, harg, hdata⟩
      obtain h | ⟨h31, h0⟩ | ⟨h0, hne⟩ := hcase
      · exact h hopc
      · exact harg.elim h31 h0
      · exact hne (hdata h0)
    refine ⟨setStatus .illegalCommand (prologue (setPort rest s)), ?_, ⟨rfl, rfl, rfl⟩, ?_⟩
    · rw [step_of_port hp, serve, issueCommand_refused hlen hno]
      rfl
    · exact Left.leaves (l := leftFail s .illegalCommand) (Nat.zero_le _) (setPort rest s)
  · obtain ⟨i, hi⟩ := exists_decodeFields_ok_iff.2 ⟨hopc, harg, hdata⟩
    obtain ⟨-, -, hd⟩ := fields_of_decodeFields hi
    exact ⟨i, by rw [decode_wellFramed _ _ hlen, hi], hd⟩

/-- Settles O5: the decoder evaluated on each of the seven byte sequences. -/
theorem sampleWordsDecode : Obligations.SampleWordsDecode := by
  refine ⟨?_, ?_, ?_, ?_, ?_, ?_, ?_⟩ <;> decide

end Sys2Proof.Machine
end

section
/-! PROOFS. The length contracts (30_encoding.md R73, R75): what a broken one leaves, and which bytes a command with a
minimum acts on. -/

namespace Sys2Proof.Machine

/-- The exact-length contracts of R73, by operation code. -/
def exactLengths : List (Byte × Nat) :=
  [(0x10, 33), (0x11, 25), (0x12, 25), (0x13, 1), (0x14, 33), (0x20, 2), (0x21, 9), (0x22, 12), (0x30, 21), (0x31, 21)]

/-- The minimum-length contracts of R73, by operation code. -/
def minLengths : List (Byte × Nat) := [(0x02, 2), (0x40, 2), (0x41, 12)]

/-! ### A broken contract -/

theorem exec_invalidLength {i : Instr} {n : Nat} {s : State} (h : (i.opc, n) ∈ exactLengths)
    (hlen : i.data.length ≠ n) :
    exec i s = .next (setStatus .invalidLength (if i.opc = 0x30 then prologueSt s else prologue s)) := by
  cases i with
  | nop | crcAppend _ | crcVerify _ | csbkPut _ | dhPut _ => simp [exactLengths, Instr.opc] at h
  | _ =>
    obtain rfl : n = _ := by simpa [exactLengths, Instr.opc] using h
    exact requireLen_of_ne hlen _ _

theorem exec_dataTooShort {i : Instr} {n : Nat} {s : State} (h : (i.opc, n) ∈ minLengths)
    (hlen : i.data.length < n) :
    exec i s = .next (setStatus .dataTooShort
      (if i.opc = 0x40 then prologueCsbk s else if i.opc = 0x41 then prologueDh s else prologue s)) := by
  cases i with
  | crcVerify _ | csbkPut _ | dhPut _ =>
    obtain rfl : n = _ := by simpa [minLengths, Instr.opc] using h
    exact requireMinLen_of_lt hlen _ _
  | _ => simp [minLengths, Instr.opc] at h

/-- A failure that wrote nothing before it leaves the common registers and `OBUF` empty, whatever its prologue made of
the unit groups. -/
theorem leaves_failure (s : State) (st : Status) (g : Csbk) (d : DataHeader) (e : SlotType) :
    Leaves s (setStatus st (setCsbk g (setDh d (setSt e (prologue s))))) (statusCode st) false 0 0 0 [] :=
  Left.leaves (l := ⟨st, false, 0, 0, 0, [], g, d, e⟩) (Nat.zero_le _) s

/-! ### Bytes above a minimum -/

theorem requireMinLen_take {n m : Nat} (h : n ≤ m) (data : List Byte) (s : State) (r : Result) :
    requireMinLen n (data.take m) s r = requireMinLen n data s r := by
  simp [requireMinLen, h]

theorem ibuf_take {m i : Nat} (h : i < m) (data : List Byte) : ibuf (data.take m) i = ibuf data i := by
  simp [ibuf, h]

theorem wakeupOk_take (c : Config) (data : List Byte) : wakeupOk c (data.take 35) = wakeupOk c data := by
  rw [wakeupOk, ibuf_take (by decide), ibuf_take (by decide), wakeupOk]

/-- Bytes from index 35 on are cut (44_csbk.md R191). -/
theorem padOrTruncate_take (data : List Byte) : padOrTruncate (data.take 35) = padOrTruncate data := by
  refine List.map_congr_left fun i hi => ?_
  have hlt : 2 + i < 35 := by
    have : i < 33 := List.mem_range.1 hi
    omega
  simp [ibuf_take hlt, hlt]

theorem csbkPut_take (data : List Byte) (s : State) :
    exec (.csbkPut (data.take 35)) s = exec (.csbkPut data) s := by
  show execCsbkPut _ s = execCsbkPut _ s
  unfold execCsbkPut
  rw [padOrTruncate_take, wakeupOk_take, requireMinLen_take (by decide)]

theorem dhPut_take (data : List Byte) (s : State) : exec (.dhPut (data.take 12)) s = exec (.dhPut data) s := by
  have hblock : ibufSlice (data.take 12) 0 dhBlock = ibufSlice data 0 dhBlock := by
    simp [ibufSlice, dhBlock]
  show execDhPut _ s = execDhPut _ s
  unfold execDhPut
  rw [hblock, requireMinLen_take (by decide)]

theorem crcVerify_status {data : List Byte} {s t : State} (hlen : 2 ≤ data.length)
    (h : exec (.crcVerify data) s = .next t) : t.status = 0x00 := by
  obtain ⟨-, h⟩ | ⟨hlt, -⟩ := requireMinLen_next h
  · cases h
    rfl
  · omega

/-- Settles O22: a broken contract ends at its test, before the command's body (`exec_invalidLength`,
`exec_dataTooShort`); a command with a minimum reads a prefix of its data, or all of them (`CRC.VERIFY`). -/
theorem lengthContracts : Obligations.LengthContracts := by
  refine ⟨fun i n s h hlen => ?_, fun i n s h hlen => ?_, fun data s => (csbkPut_take data s).symm,
    fun data s => (dhPut_take data s).symm, fun data s t hlen h => ⟨crcVerify_status hlen h, ?_⟩⟩
  · refine ⟨_, exec_invalidLength h hlen, ?_⟩
    split
    · exact leaves_failure s .invalidLength s.csbk s.dh .zero
    · exact leaves_failure s .invalidLength s.csbk s.dh s.st
  · refine ⟨_, exec_dataTooShort h hlen, ?_⟩
    split
    · exact leaves_failure s .dataTooShort .zero s.dh s.st
    · split
      · exact leaves_failure s .dataTooShort s.csbk .zero s.st
      · exact leaves_failure s .dataTooShort s.csbk s.dh s.st
  · rw [crcVerify_crcval h, if_pos hlen]

end Sys2Proof.Machine
end

section
/-! PROOFS. The encoding of a format N command (30_encoding.md R72, R74), and the outcome of each command that meets
its length contract as one equation over `Left`, from which `Left.leaves` gives what the obligations ask. -/

namespace Sys2Proof.Machine

/-- `ARG` 0x00 makes the command, any other `ARG` is reserved (R72, R74). -/
theorem encodedN_of_opc {i : Instr} (h31 : i.opc ≠ 0x31) (hlen : i.data.length ≤ 255) :
    EncodedN i.opc i.data i := by
  obtain ⟨r, hrow, harg, -, -⟩ := decodeFields_eq_ok_iff.1 (decodeFields_fields i)
  obtain ⟨hr, hopc⟩ := rowOf_some hrow
  have hn : r.format = .n := (format_eq_n_iff hr).2 (hopc ▸ h31)
  intro arg
  rw [decode_wellFramed _ _ hlen]
  split
  · next h => rw [h, ← harg hn, decodeFields_fields]
  · next h =>
    rw [decodeFields, hrow]
    exact if_pos ⟨hn, h⟩

/-- An exact length that is met, then an output with its group masks. -/
theorem requireLen_emit {n : Nat} {data out : List Byte} (hlen : data.length = n) (hout : out.length ≤ obufSize)
    (hamc hamu : BitVec 24) (s : State) :
    requireLen n data (prologue s) (emit out (setHam hamc hamu (prologue s))) =
      .next ((leftOut s hamc hamu 0 out).apply s) := by
  rw [requireLen_of_eq hlen, emit_of_le hout]
  rfl

theorem exec_bptcExtract {data : List Byte} (hlen : data.length = 33) (s : State) :
    exec (.bptcExtract data) s = .next ((leftOut s 0 0 0 (pack (extract data))).apply s) :=
  requireLen_emit hlen (by simp [obufSize]) 0 0 s

theorem exec_bptcDeint {data : List Byte} (hlen : data.length = 25) (s : State) :
    exec (.bptcDeint data) s = .next ((leftOut s 0 0 0 (pack (deint (bitsOf data 196)))).apply s) :=
  requireLen_emit hlen (by simp [obufSize]) 0 0 s

theorem exec_bptcIntlv {data : List Byte} (hlen : data.length = 25) (s : State) :
    exec (.bptcIntlv data) s = .next ((leftOut s 0 0 0 (pack (intlv (bitsOf data 196)))).apply s) :=
  requireLen_emit hlen (by simp [obufSize]) 0 0 s

theorem exec_bptcHam8 {data : List Byte} (hlen : data.length = 1) (s : State) :
    exec (.bptcHam8 data) s = .next ((leftOut s (classMask .corrected [ham8Class (ibuf data 0)])
      (classMask .uncorrectable [ham8Class (ibuf data 0)]) 0
      [ham8Byte (ibuf data 0), BitVec.ofNat 8 (ham8Syndrome (ibuf data 0))]).apply s) :=
  requireLen_emit hlen (by simp [obufSize]) _ _ s

theorem exec_bptcDecode {data : List Byte} (hlen : data.length = 33) (s : State) :
    exec (.bptcDecode data) s =
      .next ((leftOut s (bptcDecode data).hamc (bptcDecode data).hamu 0 (bptcDecode data).payload).apply s) :=
  requireLen_emit hlen (by simp [obufSize]) _ _ s

theorem exec_gfMul {data : List Byte} (hlen : data.length = 2) (s : State) :
    exec (.gfMul data) s = .next ((leftOut s 0 0 0 [gmult (ibuf data 0) (ibuf data 1)]).apply s) :=
  requireLen_emit hlen (by simp [obufSize]) 0 0 s

theorem exec_rsEncode {data : List Byte} (hlen : data.length = 9) (s : State) :
    exec (.rsEncode data) s = .next ((leftOut s 0 0 0 (rsEncode data)).apply s) :=
  requireLen_emit hlen (by simp [obufSize]) 0 0 s

/-- The output of `CRC.APPEND` fits for every `LEN` (40_crc.md R104). -/
theorem length_crcAppend_le {data : List Byte} (hlen : data.length ≤ 255) : (crcAppend data).length ≤ obufSize :=
  (length_crcAppend data).trans_le (Nat.add_le_add_right hlen 2)

theorem exec_crcAppend {data : List Byte} (hlen : data.length ≤ 255) (s : State) :
    exec (.crcAppend data) s = .next ((leftOut s 0 0 (crc16 data) (crcAppend data)).apply s) :=
  emit_of_le (length_crcAppend_le hlen) _

theorem leaves_crcAppend {data : List Byte} (hlen : data.length ≤ 255) (s : State) :
    Leaves s ((leftOut s 0 0 (crc16 data) (crcAppend data)).apply s) 0x00 false 0 0 (crc16 data) (crcAppend data) :=
  Left.leaves (l := leftOut s 0 0 (crc16 data) (crcAppend data)) (length_crcAppend_le hlen) s

theorem exec_crcVerify {data : List Byte} (hlen : 2 ≤ data.length) (s : State) :
    exec (.crcVerify data) s = .next ((leftTruth s (crcVerify data) (crc16 (crcCovered data))).apply s) :=
  requireMinLen_of_le hlen _ _

theorem exec_rsCheck {data : List Byte} (hlen : data.length = 12) (s : State) :
    exec (.rsCheck data) s = .next ((leftTruth s (rsCheck data) 0).apply s) :=
  requireLen_of_eq hlen _ _

theorem exec_dhPut {data : List Byte} (hlen : 12 ≤ data.length) (hok : crcVerify (ibufSlice data 0 dhBlock) = true)
    (s : State) :
    exec (.dhPut data) s = .next (Left.apply { leftOut s 0 0 (crc16 (crcCovered (ibufSlice data 0 dhBlock)))
      (ibufSlice data 0 dhBlock) with dh := dhFields (ibufSlice data 0 dhBlock) } s) := by
  have hout : (ibufSlice data 0 dhBlock).length ≤ obufSize := (List.length_take_le _ _).trans (by decide)
  show execDhPut data s = _
  rw [execDhPut, requireMinLen_of_le (n := dhBlock) hlen, hok, emit_of_le hout]
  rfl

/-- The output bytes a host reads back are the output (60_exceptions.md R235). -/
theorem Leaves.firstBytes_eq {s t : State} {status : Byte} {truth : Bool} {hamc hamu : BitVec 24} {crcval : Crc}
    {out : List Byte} (h : Leaves s t status truth hamc hamu crcval out) :
    Memory.firstBytes t.obuf t.olen.toNat = out := by
  rw [h.olen_eq]
  refine List.ext_getElem (by simp [Memory.firstBytes]) fun a ha hout => ?_
  simp [Memory.firstBytes, h.obuf_eq, hout]

end Sys2Proof.Machine
end

section
/-! PROOFS. The CRC register (40_crc.md R100 to R103): a shift is linear and loses nothing, so the table form is the
bit-serial form, a changed byte changes the CRC, and a trailer leads to the residue. -/

namespace Sys2Proof.Machine

/-! ### Shifts -/

theorem crcShift_xor (a b : Crc) : crcShift (a ^^^ b) = crcShift a ^^^ crcShift b := by
  rw [crcShift, crcShift, crcShift, BitVec.getLsbD_xor, BitVec.shiftLeft_xor_distrib]
  cases a.getLsbD 15 <;> cases b.getLsbD 15 <;> simp [BitVec.xor_assoc, BitVec.xor_comm crcPoly]

theorem crcShifts_xor (n : Nat) (a b : Crc) : crcShifts n (a ^^^ b) = crcShifts n a ^^^ crcShifts n b := by
  induction n generalizing a b with
  | zero => rfl
  | succ n ih => rw [crcShifts, crcShift_xor, ih, crcShifts, crcShifts]

/-- Bit 0 of the polynomial tells whether the bit shifted out was set, so no two registers meet. -/
theorem crcShift_injective : Function.Injective crcShift := by
  intro a b h
  have hbit (r : Crc) : (crcShift r).getLsbD 0 = r.getLsbD 15 := by
    unfold crcShift
    split
    · simp [crcPoly, *]
    · simp_all
  have h15 : a.getLsbD 15 = b.getLsbD 15 := by rw [← hbit, h, hbit]
  have hshift : a <<< 1 = b <<< 1 := by
    rw [crcShift, crcShift, h15] at h
    split at h
    · exact BitVec.xor_left_inj _ |>.1 h
    · exact h
  apply BitVec.eq_of_getLsbD_eq
  intro i hi
  by_cases hi15 : i = 15
  · rw [hi15, h15]
  · have hnext := congrArg (fun r : Crc => r.getLsbD (i + 1)) hshift
    simpa [show i + 1 < 16 by omega, hi] using hnext

theorem crcShifts_injective (n : Nat) : Function.Injective (crcShifts n) := by
  induction n with
  | zero => exact Function.injective_id
  | succ n ih => exact ih.comp crcShift_injective

/-! ### The register update -/

theorem hiByte_eq (r : Crc) : hiByte r = (r >>> 8).setWidth 8 := by
  ext i hi
  simp [hiByte]

/-- The register is its low byte, and its high byte shifted up. -/
theorem loByte_xor_hiByte (r : Crc) : (loByte r).setWidth 16 ^^^ ((hiByte r).setWidth 16 <<< 8) = r := by
  ext i hi
  by_cases h8 : i < 8
  · simp [loByte, hiByte, h8, BitVec.getLsbD_eq_getElem hi]
  · simp [loByte, hiByte, h8, show 8 + (i - 8) = i by omega, show i - 8 < 8 by omega, BitVec.getLsbD_eq_getElem hi]

/-- A low byte is only shifted: none of its bits leaves the register. -/
theorem crcShifts_byte : ∀ b : Byte, crcShifts 8 (b.setWidth 16) = b.setWidth 16 <<< 8 := by decide +kernel

/-- The table form is the bit-serial form (R101): the low byte of the register is shifted up whole, and the table
holds the eight shifts of the rest. -/
theorem crcStep_eq_crcShifts (r : Crc) (b : Byte) : crcStep r b = crcShifts 8 (r ^^^ (b.setWidth 16 <<< 8)) := by
  have hlow : (loByte r).setWidth 16 <<< 8 = r <<< 8 := by
    ext i hi
    simp [loByte, show i - 8 < 8 by omega, BitVec.getLsbD_eq_getElem (show i - 8 < 16 by omega)]
  have hhigh : r ^^^ (b.setWidth 16 <<< 8) =
      (loByte r).setWidth 16 ^^^ ((hiByte r ^^^ b).setWidth 16 <<< 8) := by
    rw [BitVec.setWidth_xor, BitVec.shiftLeft_xor_distrib, ← BitVec.xor_assoc, loByte_xor_hiByte]
  rw [hhigh, crcShifts_xor, crcShifts_byte, hlow, crcStep, crcTable]

theorem crcStep_xor (r r' : Crc) (b b' : Byte) : crcStep (r ^^^ r') (b ^^^ b') = crcStep r b ^^^ crcStep r' b' := by
  simp only [crcStep_eq_crcShifts, ← crcShifts_xor, BitVec.setWidth_xor, BitVec.shiftLeft_xor_distrib]
  congr 1
  ac_rfl

/-- A byte that cancels the high half leaves only the shift. -/
theorem crcStep_hiByte (r : Crc) : crcStep r (hiByte r) = r <<< 8 := by
  have hzero : crcTable 0#8 = 0#16 := by decide
  rw [crcStep, BitVec.xor_self, hzero, BitVec.xor_zero]

theorem crcStep_injective (b : Byte) : Function.Injective (crcStep · b) := by
  intro r r' h
  simp only [crcStep_eq_crcShifts] at h
  exact BitVec.xor_left_inj _ |>.1 (crcShifts_injective 8 h)

/-- The byte is in the register's high half before the shifts, so two bytes lead to two registers. -/
theorem crcStep_byte_injective (r : Crc) : Function.Injective (crcStep r) := by
  intro b b' h
  simp only [crcStep_eq_crcShifts] at h
  have hhi := BitVec.xor_right_inj _ |>.1 (crcShifts_injective 8 h)
  ext i hi
  have hbit := congrArg (fun v : Crc => v.getLsbD (i + 8)) hhi
  simpa [show i + 8 < 16 by omega, hi] using hbit

theorem crcRun_injective (data : List Byte) : Function.Injective (crcRun · data) := by
  induction data with
  | nil => exact Function.injective_id
  | cons b data ih => exact ih.comp (crcStep_injective b)

/-- One changed byte changes the register, wherever it stands. -/
theorem crcRun_set_ne {data : List Byte} {k : Nat} {x : Byte} (hk : k < data.length) (hx : x ≠ data.getD k 0#8)
    (r : Crc) : crcRun r (data.set k x) ≠ crcRun r data := by
  induction data generalizing r k with
  | nil => simp at hk
  | cons b data ih =>
    cases k with
    | zero => exact fun h => hx (crcStep_byte_injective r (crcRun_injective data h))
    | succ k => exact ih (Nat.lt_of_succ_lt_succ hk) hx (crcStep r b)

theorem crc16_set_ne {data : List Byte} {k : Nat} {x : Byte} (hk : k < data.length) (hx : x ≠ data.getD k 0#8) :
    crc16 (data.set k x) ≠ crc16 data :=
  fun h => crcRun_set_ne hk hx crcInit (BitVec.xor_left_inj _ |>.1 h)

/-! ### The trailer -/

theorem hiByte_loByte_inj {c d : Crc} : hiByte c = hiByte d ∧ loByte c = loByte d ↔ c = d :=
  ⟨fun ⟨hhi, hlo⟩ => by rw [← hiByte_append_loByte c, hhi, hlo, hiByte_append_loByte], fun h => by simp [h]⟩

/-- The last two bytes against the CRC of the bytes before them (R103). -/
theorem crcVerify_append_pair (data : List Byte) (a b : Byte) :
    crcVerify (data ++ [a, b]) = true ↔ a = hiByte (crc16 data) ∧ b = loByte (crc16 data) := by
  simp [crcVerify, crcCovered]

/-- A changed byte never verifies: in the data it changes the CRC, in the trailer the byte compared (R106). -/
theorem crcVerify_set_crcAppend {data : List Byte} {k : Nat} {x : Byte} (hk : k < data.length + 2)
    (hx : x ≠ (crcAppend data).getD k 0#8) : crcVerify ((crcAppend data).set k x) = false := by
  rw [← Bool.not_eq_true]
  by_cases hd : k < data.length
  · rw [getD_crcAppend_of_lt hd] at hx
    rw [crcAppend, List.set_append_left _ _ hd, crcTrailer, crcVerify_append_pair, hiByte_loByte_inj]
    exact (crc16_set_ne hd hx).symm
  · have htrailer : k = data.length ∨ k = data.length + 1 := by omega
    rcases htrailer with rfl | rfl <;> simp_all [crcAppend, crcTrailer, crcVerify_append_pair]

/-- The register's own two bytes clear it. -/
theorem crcRun_hiByte_loByte (r : Crc) : crcRun r [hiByte r, loByte r] = 0 := by
  have hlo : hiByte (r <<< 8) = loByte r := by
    ext i hi
    simp [hiByte, loByte, show 8 + i < 16 by omega, BitVec.getLsbD_eq_getElem (show i < 16 by omega)]
  calc crcStep (crcStep r (hiByte r)) (loByte r)
    _ = crcStep (r <<< 8) (hiByte (r <<< 8)) := by rw [crcStep_hiByte, hlo]
    _ = r <<< 8 <<< 8 := crcStep_hiByte _
    _ = 0 := by simp [← BitVec.shiftLeft_add]

/-- The trailer is the complement of the register, and the complement adds what two 0xFF bytes lead to from 0. -/
theorem crcRun_complement (r : Crc) : crcRun r [hiByte (r ^^^ 0xFFFF), loByte (r ^^^ 0xFFFF)] = 0x1D0F := by
  have hhi : hiByte (r ^^^ 0xFFFF) = hiByte r ^^^ 0xFF := BitVec.extractLsb'_xor
  have hlo : loByte (r ^^^ 0xFFFF) = loByte r ^^^ 0xFF := BitVec.extractLsb'_xor
  calc crcRun r [hiByte (r ^^^ 0xFFFF), loByte (r ^^^ 0xFFFF)]
    _ = crcStep (crcStep (r ^^^ 0) (hiByte r ^^^ 0xFF)) (loByte r ^^^ 0xFF) := by
      rw [hhi, hlo, show r ^^^ 0 = r from BitVec.xor_zero]; rfl
    _ = crcRun r [hiByte r, loByte r] ^^^ crcRun 0 [0xFF, 0xFF] := by
      rw [crcStep_xor, crcStep_xor]; rfl
    _ = 0x1D0F := by rw [crcRun_hiByte_loByte]; decide

theorem xor_bit_ne (b : Byte) {j : Nat} (hj : j < 8) : b ^^^ (1#8 <<< j) ≠ b := by
  have hbit : ∀ j < 8, 1#8 <<< j ≠ 0#8 := by decide
  exact fun h => hbit j hj (by simpa using h)

end Sys2Proof.Machine
end

section
/-! PROOFS. `CRC.APPEND` and `CRC.VERIFY` and the properties of the CRC (40_crc.md R100 to R107). -/

namespace Sys2Proof.Machine

/-- Settles O26: the output fits for every `LEN` (`length_crcAppend_le`), and its trailer is the CRC. -/
theorem crcAppendResult : Obligations.CrcAppendResult := by
  refine ⟨fun data s hlen => ⟨?_, _, exec_crcAppend hlen s, ⟨rfl, rfl, rfl⟩, leaves_crcAppend hlen s⟩, by decide⟩
  exact encodedN_of_opc (i := .crcAppend data) (by simp [Instr.opc]) hlen

/-- Settles O27: the two sides of the length contract; two bytes are the trailer of no data. -/
theorem crcVerifyResult : Obligations.CrcVerifyResult := by
  refine ⟨fun data s hlen => ⟨?_, fun h2 => ?_, fun h2 => ?_⟩, fun a b s t h => ?_⟩
  · exact encodedN_of_opc (i := .crcVerify data) (by simp [Instr.opc]) hlen
  · exact ⟨_, exec_crcVerify h2 s, ⟨rfl, rfl, rfl⟩,
      Left.leaves (l := leftTruth s (crcVerify data) (crc16 (crcCovered data))) (Nat.zero_le _) s⟩
  · exact ⟨_, requireMinLen_of_lt h2 _ _, ⟨rfl, rfl, rfl⟩,
      Left.leaves (l := leftFail s .dataTooShort) (Nat.zero_le _) s⟩
  · obtain rfl : _ = t := by simpa [exec_crcVerify] using h
    exact crcVerify_append_pair [] a b

/-- Settles O28, by the register split into its two bytes (`crcStep_eq_crcShifts`). -/
theorem crcStepIsBitSerial : Obligations.CrcStepIsBitSerial :=
  fun r b => ⟨by rw [crcStep, hiByte_eq], crcStep_eq_crcShifts r b⟩

/-- Settles O29: what the host reads back of `CRC.APPEND` is `crcAppend data`, for which the function's two statements
are `crcVerify_crcAppend` and `crcVerify_set_crcAppend`. -/
theorem crcRoundTripDetectsFlip : Obligations.CrcRoundTripDetectsFlip := by
  have hflip (data : List Byte) (k j : Nat) (hk : k < data.length + 2) (hj : j < 8) :
      crcVerify ((crcAppend data).set k ((crcAppend data).getD k 0 ^^^ (1#8 <<< j))) = false :=
    crcVerify_set_crcAppend hk (xor_bit_ne _ hj)
  refine ⟨fun data s hlen => ?_, crcVerify_crcAppend, hflip⟩
  have hleaves := leaves_crcAppend (show data.length ≤ 255 by omega) s
  refine ⟨_, exec_crcAppend (by omega) s, ?_⟩
  rw [hleaves.firstBytes_eq, hleaves.olen_eq, length_crcAppend]
  refine ⟨fun s' => ?_, fun k j s' hk hj => ?_⟩
  · exact ⟨_, exec_crcVerify (by simp) s', crcVerify_crcAppend data⟩
  · rw [hleaves.obuf_eq]
    exact ⟨_, exec_crcVerify (by simp) s', hflip data k j hk hj⟩

/-- Settles O30: the trailer is the complement of the register the data lead to (`crcRun_complement`). -/
theorem crcResidue : Obligations.CrcResidue := by
  intro data
  rw [crcAppend, crcRun_append]
  exact crcRun_complement _

end Sys2Proof.Machine
end

section
/-! PROOFS. The worked examples of the rules: each command's equation, with its codec evaluated. -/

namespace Sys2Proof.Machine

/-- An output, with its masks, its CRC and its bytes evaluated. -/
theorem exists_leaves_output {r : Result} {s : State} {hamc hamu hamc' hamu' : BitVec 24} {crcval crcval' : Crc}
    {out out' : List Byte} (hr : r = .next ((leftOut s hamc hamu crcval out).apply s))
    (hv : (hamc, hamu, crcval, out) = (hamc', hamu', crcval', out')) (hout : out'.length ≤ 257) :
    ∃ t, r = .next t ∧ Leaves s t 0x00 false hamc' hamu' crcval' out' := by
  cases hv
  exact ⟨_, hr, Left.leaves hout s⟩

/-- A truth result, with its CRC, evaluated. -/
theorem exists_leaves_truth {r : Result} {s : State} {truth truth' : Bool} {crcval crcval' : Crc}
    (hr : r = .next ((leftTruth s truth crcval).apply s)) (hv : (truth, crcval) = (truth', crcval')) :
    ∃ t, r = .next t ∧ Leaves s t 0x00 truth' 0 0 crcval' [] := by
  cases hv
  exact ⟨_, hr, Left.leaves (Nat.zero_le _) s⟩

/-- A data header that verifies, with its block and its CRC evaluated. -/
theorem exists_leaves_dhPut {data block : List Byte} {crcval : Crc} (hlen : 12 ≤ data.length)
    (hblock : ibufSlice data 0 dhBlock = block) (hv : (crcVerify block, crc16 (crcCovered block)) = (true, crcval))
    (s : State) : ∃ t, exec (.dhPut data) s = .next t ∧ Leaves s t 0x00 false 0 0 crcval block := by
  subst hblock
  obtain ⟨hok, rfl⟩ := Prod.mk.inj hv
  have hout : (ibufSlice data 0 dhBlock).length ≤ 257 := (List.length_take_le _ _).trans (by decide)
  exact ⟨_, exec_dhPut hlen hok s, Left.leaves hout s⟩

/-- Settles O58: the codecs evaluated on the printed inputs. -/
theorem workedExamples : Obligations.WorkedExamples := by
  intro s
  simp only [List.forall_mem_cons, List.not_mem_nil, false_imp_iff, implies_true, and_true]
  refine ⟨?_, ?_, ?_, ?_, ?_, ?_, ?_, ?_, ?_, ?_, ?_, ?_, ?_, ?_⟩
  · exact exists_leaves_output (exec_crcAppend (by decide) s) (by decide +kernel) (by decide)
  · exact exists_leaves_truth (exec_crcVerify (by decide) s) (by decide +kernel)
  · exact exists_leaves_truth (exec_crcVerify (by decide) s) (by decide +kernel)
  · exact exists_leaves_output (exec_bptcExtract (by decide) s) (by decide +kernel) (by decide)
  · exact exists_leaves_output (exec_bptcDeint (by decide) s) (by decide +kernel) (by decide)
  · exact exists_leaves_output (exec_bptcIntlv (by decide) s) (by decide +kernel) (by decide)
  · exact exists_leaves_output (exec_bptcHam8 (by decide) s) (by decide +kernel) (by decide)
  · exact exists_leaves_output (exec_bptcHam8 (by decide) s) (by decide +kernel) (by decide)
  · exact exists_leaves_output (exec_bptcDecode (by decide) s) (by decide +kernel) (by decide)
  · exact exists_leaves_output (exec_gfMul (by decide) s) (by decide +kernel) (by decide)
  · exact exists_leaves_output (exec_rsEncode (by decide) s) (by decide +kernel) (by decide)
  · exact exists_leaves_truth (exec_rsCheck (by decide) s) (by decide +kernel)
  · exact exists_leaves_truth (exec_rsCheck (by decide) s) (by decide +kernel)
  · exact exists_leaves_dhPut (by decide) (by decide) (by decide +kernel) s

end Sys2Proof.Machine
end

section
/-! PROOFS. The bits of a byte sequence (00_scope.md R9): a sequence is told by its bits, packing keeps them, and a
packed 196-bit vector is 25 bytes of which the low nibble of the last is clear (41_bptc.md R133). -/

namespace Sys2Proof.Machine

/-- The 196-bit vector of a packed input, packed again: bits 3 to 0 of byte 24 are ignored and come out 0 (R133). -/
def clearedPadding (data : List Byte) : List Byte := data.take 24 ++ [data.getD 24 0 &&& 0xF0]

theorem getD_bitsOf_eq_bitAt (bytes : List Byte) {n i : Nat} (h : i < n) :
    (bitsOf bytes n).getD i false = bitAt bytes i := getD_bitsOf bytes n i h

theorem bitsOf_congr {a b : List Byte} {n : Nat} (h : ∀ i < n, bitAt a i = bitAt b i) : bitsOf a n = bitsOf b n :=
  List.map_congr_left fun i hi => h i (List.mem_range.1 hi)

@[simp] theorem bitAt_pack (v : List Bool) (i : Nat) : bitAt (pack v) i = v.getD i false := by
  rw [bitAt, getMsbD_getD_pack _ _ _ (Nat.mod_lt _ (by decide)), Nat.div_add_mod]

/-- Two sequences of one length with the same bits are the same. -/
theorem ext_bitAt {a b : List Byte} (hlen : a.length = b.length) (h : ∀ i, bitAt a i = bitAt b i) : a = b := by
  refine List.ext_getElem hlen fun k hka hkb => BitVec.eq_of_getMsbD_eq fun j hj => ?_
  have hbit := h (8 * k + j)
  rwa [bitAt, bitAt, show (8 * k + j) / 8 = k by omega, show (8 * k + j) % 8 = j by omega,
    List.getD_eq_getElem _ _ hka, List.getD_eq_getElem _ _ hkb] at hbit

/-- A sequence and a prefix of it have the same bits within the prefix. -/
theorem bitAt_take (data : List Byte) {n i : Nat} (h : i < 8 * n) : bitAt (data.take n) i = bitAt data i := by
  rw [bitAt, bitAt, List.getD_eq_getElem?_getD, List.getElem?_take_of_lt (by omega), ← List.getD_eq_getElem?_getD]

theorem getMsbD_highNibble (b : Byte) {j : Nat} (hj : j < 8) :
    (b &&& 0xF0).getMsbD j = (decide (j < 4) && b.getMsbD j) := by
  have hmask : ∀ j < 8, (0xF0#8).getMsbD j = decide (j < 4) := by decide
  rw [BitVec.getMsbD_and, Bool.and_comm]
  exact congrArg (· && b.getMsbD j) (hmask j hj)

theorem length_clearedPadding {data : List Byte} (h : 25 ≤ data.length) : (clearedPadding data).length = 25 := by
  simp [clearedPadding]; omega

/-- The first 196 bits as they are, every bit beyond them 0. -/
theorem bitAt_clearedPadding {data : List Byte} (h : 25 ≤ data.length) (i : Nat) :
    bitAt (clearedPadding data) i = (decide (i < 196) && bitAt data i) := by
  have htake : (data.take 24).length = 24 := by simp; omega
  obtain hlt | heq | hgt : i / 8 < 24 ∨ i / 8 = 24 ∨ 24 < i / 8 := by omega
  · rw [bitAt, clearedPadding, List.getD_append _ _ _ _ (by omega), decide_eq_true (by omega), Bool.true_and]
    exact bitAt_take data (by omega)
  · rw [bitAt, clearedPadding, List.getD_append_right _ _ _ _ (by omega), htake, heq, Nat.sub_self,
      List.getD_cons_zero, getMsbD_highNibble _ (by omega), bitAt, heq,
      decide_eq_decide.2 (show i % 8 < 4 ↔ i < 196 by omega)]
    rfl
  · rw [bitAt, List.getD_eq_default _ _ (by rw [length_clearedPadding h]; omega), decide_eq_false (by omega)]
    simp

/-- Unpacking 196 bits and packing them clears the padding. -/
theorem pack_bitsOf {data : List Byte} (h : 25 ≤ data.length) : pack (bitsOf data 196) = clearedPadding data := by
  refine ext_bitAt (by simp [length_clearedPadding h]) fun i => ?_
  rw [bitAt_pack, bitAt_clearedPadding h]
  by_cases hi : i < 196
  · rw [getD_bitsOf_eq_bitAt _ hi, decide_eq_true hi, Bool.true_and]
  · rw [List.getD_eq_default _ _ (by simpa using hi), decide_eq_false hi, Bool.false_and]

end Sys2Proof.Machine
end

section
/-! PROOFS. The permutations of a 196-bit vector (41_bptc.md R121, R124): multipliers inverse to each other modulo 196
give permutations that undo each other and keep the number of 1 bits. -/

namespace Sys2Proof.Machine

section
variable {k l : Nat} (hkl : k * l % 196 = 1)
include hkl

/-- Multiplying by k and then by l leads back to the index. -/
theorem mul_mul_mod_inverse {i : Nat} (hi : i < 196) : i * k % 196 * l % 196 = i := by
  rw [Nat.mod_mul_mod, Nat.mul_assoc, Nat.mul_mod, hkl, Nat.mul_one, Nat.mod_mod, Nat.mod_eq_of_lt hi]

theorem permute_permute {v : List Bool} (hv : v.length = 196) : permute k (permute l v) = v := by
  refine List.ext_getElem (by simp [hv]) fun i hi hiv => ?_
  rw [length_permute] at hi
  have hbit : (permute k (permute l v)).getD i false = v.getD i false := by
    rw [getD_permute _ _ hi, getD_permute _ _ (Nat.mod_lt _ (by decide)), mul_mul_mod_inverse hkl hi]
  simpa [List.getD_eq_getElem?_getD, hi, hiv] using hbit

/-- The indices a permutation reads are all 196 of them, each once. -/
theorem perm_range_mul : ((List.range 196).map (· * k % 196)).Perm (List.range 196) := by
  have hnodup : ((List.range 196).map (· * k % 196)).Nodup :=
    List.Nodup.map_on (fun i hi j hj hij => by
      rw [← mul_mul_mod_inverse hkl (List.mem_range.1 hi), hij, mul_mul_mod_inverse hkl (List.mem_range.1 hj)])
      List.nodup_range
  have hsub : (List.range 196).map (· * k % 196) ⊆ List.range 196 := fun n hn => by
    obtain ⟨i, -, rfl⟩ := List.mem_map.1 hn
    exact List.mem_range.2 (Nat.mod_lt _ (by decide))
  exact (hnodup.subperm hsub).perm_of_length_le (by simp)

theorem countP_permuted (f : Nat → Bool) :
    (List.range 196).countP (fun i => f (i * k % 196)) = (List.range 196).countP f :=
  List.countP_map.symm.trans ((perm_range_mul hkl).countP_eq f)

end

theorem intlv_deint {v : List Bool} (hv : v.length = 196) : intlv (deint v) = v :=
  permute_permute (k := 13) (l := 181) (by decide) hv

theorem deint_intlv {v : List Bool} (hv : v.length = 196) : deint (intlv v) = v :=
  permute_permute (k := 181) (l := 13) (by decide) hv

/-- Settles O34: 13 and 181 are inverse modulo 196 (`permute_permute`). -/
theorem deintIntlvInverse : Obligations.DeintIntlvInverse :=
  fun v hv => ⟨fun _ hi => getD_permute 13 v hi, intlv_deint hv, deint_intlv hv, rfl⟩

end Sys2Proof.Machine
end

section
/-! PROOFS. The outcome of a command that checks an exact length, as the result statements ask for it: the broken
contract, and an output over a state. -/

namespace Sys2Proof.Machine

/-- A broken exact-length contract: the failure and its frame (30_encoding.md R75, 60_exceptions.md R232). -/
theorem requireLen_failure {n : Nat} {data : List Byte} (h : data.length ≠ n) (s : State) (body : Result) :
    ∃ t, requireLen n data (prologue s) body = .next t ∧ KeepsGroups s t ∧ Leaves s t 0x02 false 0 0 0 [] :=
  ⟨_, requireLen_of_ne h _ _, ⟨rfl, rfl, rfl⟩, Left.leaves (l := leftFail s .invalidLength) (Nat.zero_le _) s⟩

section
variable (s : State) (hamc hamu : BitVec 24) (crcval : Crc) {out : List Byte}

theorem keepsGroups_leftOut : KeepsGroups s ((leftOut s hamc hamu crcval out).apply s) := ⟨rfl, rfl, rfl⟩

theorem leaves_leftOut (h : out.length ≤ 257) :
    Leaves s ((leftOut s hamc hamu crcval out).apply s) 0x00 false hamc hamu crcval out :=
  Left.leaves (l := leftOut s hamc hamu crcval out) h s

/-- What the host reads back of an output is the output. -/
theorem firstBytes_leftOut {n : Nat} (h : out.length = n) (hn : n ≤ 257) :
    Memory.firstBytes ((leftOut s hamc hamu crcval out).apply s).obuf n = out := by
  have hleaves := leaves_leftOut s hamc hamu crcval (h.trans_le hn)
  have hread := hleaves.firstBytes_eq
  rwa [hleaves.olen_eq, h] at hread

end

end Sys2Proof.Machine
end

section
/-! PROOFS. `BPTC.EXTRACT`, `BPTC.DEINT` and `BPTC.INTLV` (41_bptc.md R126 to R128). -/

namespace Sys2Proof.Machine

/-- Settles O31: packing the first 196 bits keeps them and clears the padding (`pack_bitsOf`). -/
theorem bptcExtractResult : Obligations.BptcExtractResult := by
  refine fun data s => ⟨?_, fun hlen => ?_, fun hlen => requireLen_failure hlen s _⟩
  · exact encodedN_of_opc (i := .bptcExtract data) (by simp [Instr.opc])
  · have hout : pack (extract data) = clearedPadding data := pack_bitsOf (by omega)
    refine ⟨_, exec_bptcExtract hlen s, keepsGroups_leftOut .., ?_⟩
    rw [hout]
    exact leaves_leftOut s 0 0 0 (by rw [length_clearedPadding (by omega)]; decide)

/-! ### The two permuting commands -/

/-- On 25 bytes a command leaves the packed vector permuted with multiplier k. -/
def Permutes (k : Nat) (command : List Byte → Instr) : Prop :=
  ∀ (data : List Byte) (s : State), data.length = 25 →
    exec (command data) s = .next ((leftOut s 0 0 0 (pack (permute k (bitsOf data 196)))).apply s)

theorem bptcDeint_permutes : Permutes 181 .bptcDeint := fun _ s hlen => exec_bptcDeint hlen s

theorem bptcIntlv_permutes : Permutes 13 .bptcIntlv := fun _ s hlen => exec_bptcIntlv hlen s

section
variable {k l : Nat} (hkl : k * l % 196 = 1) {command undo : List Byte → Instr} (hcommand : Permutes k command)
include hkl hcommand

/-- The output bits, the zero padding, and that no 1 bit is lost (41_bptc.md R127, R128). -/
theorem Permutes.result {data : List Byte} (hlen : data.length = 25) (s : State) :
    ∃ t out, exec (command data) s = .next t ∧ KeepsGroups s t ∧ Leaves s t 0x00 false 0 0 0 out ∧
      out.length = 25 ∧ (∀ i < 196, bitAt out i = bitAt data (i * k % 196)) ∧
      (∀ i, 196 ≤ i → bitAt out i = false) ∧
      (List.range 196).countP (bitAt out) = (List.range 196).countP (bitAt data) := by
  have hbit : ∀ i < 196, bitAt (pack (permute k (bitsOf data 196))) i = bitAt data (i * k % 196) := fun i hi => by
    rw [bitAt_pack, getD_permute k _ hi, getD_bitsOf_eq_bitAt _ (Nat.mod_lt _ (by decide))]
  refine ⟨_, _, hcommand data s hlen, keepsGroups_leftOut .., leaves_leftOut s 0 0 0 (by simp), by simp, hbit,
    fun i hi => ?_, ?_⟩
  · rw [bitAt_pack, List.getD_eq_default _ _ (by simpa using hi)]
  · rw [← countP_permuted hkl (bitAt data)]
    exact List.countP_congr fun i hi => by rw [hbit i (List.mem_range.1 hi)]

/-- A second command with the inverse multiplier, run on what the host reads back of the first, gives the input with
its padding cleared. -/
theorem Permutes.undone_by (hundo : Permutes l undo) {data : List Byte} (hlen : data.length = 25) (s : State) :
    ∃ t u, exec (command data) s = .next t ∧ exec (undo (Memory.firstBytes t.obuf 25)) t = .next u ∧
      Memory.firstBytes u.obuf 25 = clearedPadding data := by
  have hlk : l * k % 196 = 1 := by rwa [Nat.mul_comm]
  have hread (v : List Bool) (hv : v.length = 196) (s : State) :
      Memory.firstBytes ((leftOut s 0 0 0 (pack v)).apply s).obuf 25 = pack v :=
    firstBytes_leftOut s 0 0 0 (by simp [hv]) (by decide)
  have hunpack : bitsOf (pack (permute k (bitsOf data 196))) 196 = permute k (bitsOf data 196) := by
    simpa using bitsOf_pack (permute k (bitsOf data 196))
  refine ⟨_, _, hcommand data s hlen, hundo _ _ ?_, ?_⟩
  · simp [Memory.firstBytes]
  · rw [hread _ (length_permute _ _), hread _ (length_permute _ _), hunpack, permute_permute hlk (length_bitsOf _ _),
      pack_bitsOf hlen.ge]

end

/-- Settles O32: 25 bytes by `Permutes.result`, any other number by `requireLen_failure`. -/
theorem bptcDeintResult : Obligations.BptcDeintResult := by
  refine fun data s => ⟨?_, fun hlen => ?_, fun hlen => requireLen_failure hlen s _⟩
  · exact encodedN_of_opc (i := .bptcDeint data) (by simp [Instr.opc])
  · exact bptcDeint_permutes.result (l := 13) (by decide) hlen s

/-- Settles O33: as for `BPTC.DEINT`, and each of the two commands undoes the other (`Permutes.undone_by`). -/
theorem bptcIntlvResult : Obligations.BptcIntlvResult := by
  refine ⟨fun data s => ⟨?_, fun hlen => ?_, fun hlen => requireLen_failure hlen s _⟩, fun data s hlen => ?_⟩
  · exact encodedN_of_opc (i := .bptcIntlv data) (by simp [Instr.opc])
  · exact bptcIntlv_permutes.result (l := 181) (by decide) hlen s
  · obtain ⟨t, u, ht, hu, htu⟩ := bptcDeint_permutes.undone_by (by decide) bptcIntlv_permutes hlen s
    obtain ⟨v, w, hv, hw, hvw⟩ := bptcIntlv_permutes.undone_by (by decide) bptcDeint_permutes hlen s
    exact ⟨t, u, v, w, ht, hu, htu, hv, hw, hvw⟩

end Sys2Proof.Machine
end

section
/-! PROOFS. The group correction (41_bptc.md R122, R131): the three classes by the value s, which bit is flipped, and
how s, the codewords and the lowest bit of a byte go together. -/

namespace Sys2Proof.Machine

/-! ### The value s and the classes -/

/-- The weights 1, 2, 4 and 8 of the four parity positions sum to 15. -/
theorem hamSyndrome_le (g : List Bool) : hamSyndrome g ≤ 15 := by
  have hsum : hamSyndrome g ≤ (hamParityPos.map (· + 1)).sum :=
    List.sum_le_sum fun p _ => by split <;> simp
  exact hsum.trans (by decide)

section
variable {n : Nat}

theorem hamClass_eq_clean_iff : hamClass n = .clean ↔ n = 0 := by
  unfold hamClass
  split_ifs <;> simp <;> omega

theorem hamClass_eq_corrected_iff : hamClass n = .corrected ↔ 1 ≤ n ∧ n ≤ 8 := by
  unfold hamClass
  split_ifs <;> simp_all

theorem hamClass_eq_uncorrectable_iff : hamClass n = .uncorrectable ↔ 9 ≤ n := by
  unfold hamClass
  split_ifs <;> simp <;> omega

end

/-- A mask of one group: bit 0, set when the group is of the class. -/
theorem classMask_singleton (c x : HamClass) : classMask c [x] = if x = c then 1 else 0 := by
  cases c <;> cases x <;> decide

/-! ### The byte of a group -/

theorem byteOfGroup_groupOfByte (b : Byte) : byteOfGroup (groupOfByte b) = b := by
  refine BitVec.eq_of_getMsbD_eq fun j hj => ?_
  rw [byteOfGroup, getMsbD_ofBitsMsb, groupOfByte, getD_bitsOf _ _ _ hj]
  simp [hj, Nat.div_eq_of_lt hj, Nat.mod_eq_of_lt hj]

/-- Position p of a group stands at bit `7 - p` of its byte, so flipping the one flips the other. -/
theorem byteOfGroup_flip {g : List Bool} {p : Nat} (hg : g.length = 8) (hp : p < 8) :
    byteOfGroup (g.set p (!g.getD p false)) = byteOfGroup g ^^^ (0x80#8 >>> p) := by
  have hone : ∀ p < 8, ∀ j < 8, (0x80#8 >>> p).getMsbD j = decide (p = j) := by decide
  refine BitVec.eq_of_getMsbD_eq fun j hj => ?_
  rw [BitVec.getMsbD_xor, hone p hp j hj]
  simp only [byteOfGroup, getMsbD_ofBitsMsb, hj, decide_true, Bool.true_and, List.getD_eq_getElem?_getD,
    List.getElem?_set, hg, hp, if_true]
  split
  · next h => simp [h]
  · next h => simp [h]

/-- The byte part of the correction: bit `7 - (s - 1)` flipped when s is 1 to 8, else nothing. -/
theorem ham8Byte_eq (b : Byte) :
    ham8Byte b = if 1 ≤ ham8Syndrome b ∧ ham8Syndrome b ≤ 8 then b ^^^ (0x80#8 >>> (ham8Syndrome b - 1)) else b := by
  have hfix : hamFix (groupOfByte b) = if hamClass (ham8Syndrome b) = .corrected then
      (groupOfByte b).set (ham8Syndrome b - 1) (!(groupOfByte b).getD (ham8Syndrome b - 1) false)
      else groupOfByte b := rfl
  rw [ham8Byte, hfix]
  simp only [hamClass_eq_corrected_iff]
  split
  · rw [byteOfGroup_flip (g := groupOfByte b) (length_bitsOf _ _) (by omega), byteOfGroup_groupOfByte]
  · exact byteOfGroup_groupOfByte b

/-! ### The codewords -/

/-- The bytes of value 0 (R131). -/
def hamCodewords : List Byte :=
  [0x00, 0x1E, 0x2C, 0x32, 0x4A, 0x54, 0x66, 0x78, 0x86, 0x98, 0xAA, 0xB4, 0xCC, 0xD2, 0xE0, 0xFE]

theorem mem_hamCodewords_iff : ∀ b : Byte, b ∈ hamCodewords ↔ ham8Syndrome b = 0 := by decide +kernel

/-- No position contributes to the parity bit at position 7, the lowest of the byte, so it alone carries weight 8. -/
theorem ham8Syndrome_lowestBit : ∀ b : Byte,
    (b &&& 1 = 0 ∧ ham8Syndrome b ≤ 7) ∨ (b &&& 1 = 1 ∧ ham8Syndrome b = 8 + ham8Syndrome (b ^^^ 1)) := by
  decide +kernel

/-- Whatever is corrected becomes a codeword. -/
theorem ham8Byte_mem_hamCodewords : ∀ b : Byte, ham8Class b = .corrected → ham8Byte b ∈ hamCodewords := by
  decide +kernel

theorem ham8Class_eq_corrected_iff (b : Byte) :
    ham8Class b = .corrected ↔ (b &&& 1 = 0 ∧ b ∉ hamCodewords) ∨ (b &&& 1 = 1 ∧ b ^^^ 1 ∈ hamCodewords) := by
  rw [ham8Class, hamClass_eq_corrected_iff, mem_hamCodewords_iff, mem_hamCodewords_iff]
  obtain ⟨h, hs⟩ | ⟨h, hs⟩ := ham8Syndrome_lowestBit b
  · bv_omega
  · bv_omega

theorem ham8Class_eq_uncorrectable_iff (b : Byte) :
    ham8Class b = .uncorrectable ↔ b &&& 1 = 1 ∧ b ^^^ 1 ∉ hamCodewords := by
  rw [ham8Class, hamClass_eq_uncorrectable_iff, mem_hamCodewords_iff]
  obtain ⟨h, hs⟩ | ⟨h, hs⟩ := ham8Syndrome_lowestBit b
  · bv_omega
  · bv_omega

end Sys2Proof.Machine
end

section
/-! PROOFS. `BPTC.HAM8` and the byte view of the group correction (41_bptc.md R129, R131). -/

namespace Sys2Proof.Machine

/-- What `BPTC.HAM8` leaves of one byte, by its value s alone. -/
theorem exec_bptcHam8_singleton (b : Byte) (s : State) :
    exec (.bptcHam8 [b]) s = .next ((leftOut s (if 1 ≤ ham8Syndrome b ∧ ham8Syndrome b ≤ 8 then 1 else 0)
      (if 9 ≤ ham8Syndrome b then 1 else 0) 0
      [if 1 ≤ ham8Syndrome b ∧ ham8Syndrome b ≤ 8 then b ^^^ (0x80#8 >>> (ham8Syndrome b - 1)) else b,
        BitVec.ofNat 8 (ham8Syndrome b)]).apply s) := by
  rw [exec_bptcHam8 rfl, show ibuf [b] 0 = b from rfl, ham8Byte_eq]
  simp only [classMask_singleton, ham8Class, hamClass_eq_corrected_iff, hamClass_eq_uncorrectable_iff]

/-- Settles O35: one byte by `exec_bptcHam8_singleton`, any other number by `requireLen_failure`. -/
theorem bptcHam8Result : Obligations.BptcHam8Result := by
  refine ⟨fun data s => ⟨?_, fun hlen => requireLen_failure hlen s _⟩, fun b s => ⟨hamSyndrome_le _, ?_⟩⟩
  · exact encodedN_of_opc (i := .bptcHam8 data) (by simp [Instr.opc])
  · exact ⟨_, exec_bptcHam8_singleton b s, keepsGroups_leftOut .., leaves_leftOut s _ _ 0 (by simp)⟩

/-- Settles O36: the classes by the value s and by the lowest bit (`ham8Syndrome_lowestBit`); the single-bit changes,
the two counts and the printed table over the sixteen codewords and the 256 bytes. -/
theorem ham8ByteView : Obligations.Ham8ByteView := by
  refine ⟨fun b => ⟨?_, hamClass_eq_clean_iff, ham8Class_eq_corrected_iff b, hamClass_eq_corrected_iff,
    ham8Class_eq_uncorrectable_iff b, ?_, ?_, ham8Byte_mem_hamCodewords b, fun h hb => ?_⟩,
    by decide +kernel, by decide +kernel, by decide +kernel, by decide +kernel⟩
  · exact hamClass_eq_clean_iff.trans (mem_hamCodewords_iff b).symm
  · exact hamClass_eq_uncorrectable_iff.trans (and_iff_left (hamSyndrome_le _)).symm
  · simp only [ham8Class, hamClass_eq_corrected_iff]
    exact ham8Byte_eq b
  · have hzero := (mem_hamCodewords_iff _).1 hb
    obtain ⟨h0, -⟩ | ⟨-, hs⟩ := ham8Syndrome_lowestBit b
    · exact absurd (h0.symm.trans h) (by decide)
    · rw [hs, hzero]

end Sys2Proof.Machine
end

section
/-! PROOFS. `BPTC.DECODE` (41_bptc.md R123, R130, R132): payload and masks by the 24 groups of a block, and which bytes
of a block, and of a wakeup frame (44_csbk.md R191), they depend on. -/

namespace Sys2Proof.Machine

/-! ### Payload and masks by groups -/

/-- Group k of the deinterleaved vector is `rawGroup` of the block. -/
theorem byteOfGroup_group (block : List Byte) {k : Nat} (hk : k < 24) :
    byteOfGroup (group (deint (extract block)) k) = rawGroup block k := by
  refine BitVec.eq_of_getMsbD_eq fun j hj => ?_
  rw [byteOfGroup, rawGroup, getMsbD_ofBitsMsb, getMsbD_ofBitsMsb, group, List.getD_eq_getElem?_getD,
    List.getElem?_take_of_lt hj, List.getElem?_drop, ← List.getD_eq_getElem?_getD, deint, getD_permute _ _ (by omega)]
  exact congrArg _ (getD_bitsOf_eq_bitAt block (Nat.mod_lt _ (by decide)))

theorem payload_eq (block : List Byte) :
    (bptcDecode block).payload = (List.range 12).map (fun k => ham8Byte (rawGroup block k)) := by
  refine List.ext_getElem (by simp) fun k hk _ => ?_
  rw [length_payload] at hk
  have hbyte := getD_payload block hk
  rw [byteOfGroup_group block (by omega), List.getD_eq_getElem _ _ (by simpa using hk)] at hbyte
  simpa using hbyte

/-- The class of group k, as the masks hold it. -/
theorem getElem?_groupClasses (block : List Byte) {k : Nat} (hk : k < 24) :
    (groupClasses (deint (extract block)))[k]? = some (ham8Class (rawGroup block k)) := by
  rw [← byteOfGroup_group block hk, ham8Class, ham8Syndrome, groupOfByte_byteOfGroup (length_group (by simp; omega))]
  simp [groupClasses, groups, hk]

theorem getLsbD_classMask_groups (c : HamClass) (block : List Byte) {k : Nat} (hk : k < 24) :
    (classMask c (groupClasses (deint (extract block)))).getLsbD k = (ham8Class (rawGroup block k) == c) := by
  rw [getLsbD_classMask, getElem?_groupClasses block hk, decide_eq_true hk, Bool.true_and]
  rfl

theorem getLsbD_hamc (block : List Byte) {k : Nat} (hk : k < 24) :
    (bptcDecode block).hamc.getLsbD k = (ham8Class (rawGroup block k) == .corrected) :=
  getLsbD_classMask_groups .corrected block hk

theorem getLsbD_hamu (block : List Byte) {k : Nat} (hk : k < 24) :
    (bptcDecode block).hamu.getLsbD k = (ham8Class (rawGroup block k) == .uncorrectable) :=
  getLsbD_classMask_groups .uncorrectable block hk

/-! ### Which bytes reach them -/

/-- The decode reads the first 196 bits of a block only (R120). -/
theorem bptcDecode_congr {block block' : List Byte} (h : ∀ i < 196, bitAt block i = bitAt block' i) :
    bptcDecode block = bptcDecode block' := by
  have hextract : extract block = extract block' := bitsOf_congr h
  rw [bptcDecode, bptcDecode, hextract]

/-- The low nibble of byte 24 and everything beyond it is ignored (R120). -/
theorem bptcDecode_of_clearedPadding_eq {block block' : List Byte} (hlen : 25 ≤ block.length)
    (hlen' : 25 ≤ block'.length) (h : clearedPadding block = clearedPadding block') :
    bptcDecode block = bptcDecode block' := by
  refine bptcDecode_congr fun i hi => ?_
  simpa [bitAt_clearedPadding, hlen, hlen', hi] using congrArg (bitAt · i) h

/-- Vector bits 192 to 195 stand in groups 18, 19, 21 and 22 (R121). -/
theorem deinterleaved_lt : ∀ k < 24, k ∉ [18, 19, 21, 22] → ∀ j < 8, (8 * k + j) * 181 % 196 < 192 := by decide

/-- Every other group is told by the first 24 bytes. -/
theorem rawGroup_of_take_eq {block block' : List Byte} (h : block.take 24 = block'.take 24) {k : Nat} (hk : k < 24)
    (hpad : k ∉ [18, 19, 21, 22]) : rawGroup block k = rawGroup block' k := by
  refine BitVec.eq_of_getMsbD_eq fun j hj => ?_
  have hlt : (8 * k + j) * 181 % 196 < 8 * 24 := deinterleaved_lt k hk hpad j hj
  rw [rawGroup, rawGroup, getMsbD_ofBitsMsb, getMsbD_ofBitsMsb, ← bitAt_take block hlt, h, bitAt_take block' hlt]

theorem payload_of_take_eq {block block' : List Byte} (h : block.take 24 = block'.take 24) :
    (bptcDecode block).payload = (bptcDecode block').payload := by
  have hpad : ∀ k < 12, k ∉ [18, 19, 21, 22] := by decide
  rw [payload_eq, payload_eq]
  refine List.map_congr_left fun k hk => ?_
  have hk12 := List.mem_range.1 hk
  rw [rawGroup_of_take_eq h (by omega) (hpad k hk12)]

/-! ### A wakeup frame of 27 bytes or more -/

/-- Byte k of the block is byte `2 + k` of the frame, or the padding's 0x00. -/
theorem getD_padOrTruncate {data : List Byte} {k : Nat} (hk : k < 33) :
    (padOrTruncate data).getD k 0#8 = ibuf data (2 + k) := by
  by_cases h : 2 + k < data.length
  · simp [padOrTruncate, bptcBytes, hk, h]
  · simp [padOrTruncate, bptcBytes, ibuf, hk, h]

section
variable {data data' : List Byte} (h : data.take 27 = data'.take 27)
include h

theorem ibuf_of_take_eq {i : Nat} (hi : i < 27) : ibuf data i = ibuf data' i := by
  rw [← ibuf_take hi data, h, ibuf_take hi data']

/-- The block of a wakeup frame is decoded from bytes 2 to 26 of the frame (R191). -/
theorem bptcDecode_padOrTruncate_of_take_eq :
    bptcDecode (padOrTruncate data) = bptcDecode (padOrTruncate data') :=
  bptcDecode_congr fun i hi => by
    rw [bitAt, bitAt, getD_padOrTruncate (by omega), getD_padOrTruncate (by omega), ibuf_of_take_eq h (by omega)]

theorem wakeupOk_of_take_eq (c : Config) : wakeupOk c data = wakeupOk c data' := by
  rw [wakeupOk, wakeupOk, ibuf_of_take_eq h (by decide), ibuf_of_take_eq h (by decide)]

theorem exec_csbkPut_of_take_eq (hlen : 27 ≤ data.length) (hlen' : 27 ≤ data'.length) (s : State) :
    exec (.csbkPut data) s = exec (.csbkPut data') s := by
  show execCsbkPut data s = execCsbkPut data' s
  unfold execCsbkPut
  rw [bptcDecode_padOrTruncate_of_take_eq h, wakeupOk_of_take_eq h, requireMinLen_of_le (by omega),
    requireMinLen_of_le (by omega)]

end

/-! ### The obligations -/

/-- Settles O37: payload and masks by groups, the ignored bits by `bptcDecode_of_clearedPadding_eq`, and the two
uniform blocks evaluated. -/
theorem bptcDecodeResult : Obligations.BptcDecodeResult := by
  refine ⟨fun data s => ⟨?_, fun hlen => requireLen_failure hlen s _, fun hlen => ?_⟩,
    fun data data' s hlen hlen' h24 hpad => ?_, fun s => ?_⟩
  · exact encodedN_of_opc (i := .bptcDecode data) (by simp [Instr.opc])
  · refine ⟨_, _, _, exec_bptcDecode hlen s, keepsGroups_leftOut .., ?_, fun k => getLsbD_hamc data,
      fun k => getLsbD_hamu data, classMask_disjoint _⟩
    rw [← payload_eq]
    exact leaves_leftOut s _ _ 0 (by simp)
  · have hclear : clearedPadding data = clearedPadding data' := by rw [clearedPadding, h24, hpad, clearedPadding]
    rw [exec_bptcDecode hlen, exec_bptcDecode hlen',
      bptcDecode_of_clearedPadding_eq (by omega) (by omega) hclear]
  · have hzeros : bptcDecode (List.replicate 33 0x00) = ⟨List.replicate 12 0x00, 0, 0⟩ := by decide +kernel
    have hones : bptcDecode (List.replicate 33 0xFF) = ⟨List.replicate 12 0xFE, 0xFFFFFF, 0⟩ := by decide +kernel
    refine ⟨_, _, exec_bptcDecode (by simp) s, ?_, exec_bptcDecode (by simp) s, ?_⟩
    · rw [hzeros]; exact leaves_leftOut s 0 0 0 (by simp)
    · rw [hones]; exact leaves_leftOut s 0xFFFFFF 0 0 (by simp)

/-- Settles O38: the payload and the masks of a block by the groups that its first 24 bytes tell
(`rawGroup_of_take_eq`), and a wakeup frame by the 27 bytes that are read (`exec_csbkPut_of_take_eq`). -/
theorem payloadNeedsOnly24Bytes : Obligations.PayloadNeedsOnly24Bytes := by
  refine ⟨fun data data' s t t' hlen hlen' h24 ht ht' => ?_, fun data data' s hlen hlen' h27 =>
    exec_csbkPut_of_take_eq h27 hlen hlen' s⟩
  rw [exec_bptcDecode hlen] at ht
  rw [exec_bptcDecode hlen'] at ht'
  cases ht
  cases ht'
  refine ⟨?_, fun k hk hpad => ?_⟩
  · show Memory.writeBytes _ _ (bptcDecode data).payload = Memory.writeBytes _ _ (bptcDecode data').payload
    rw [payload_of_take_eq h24]
  · have hgroup := rawGroup_of_take_eq h24 hk hpad
    show (bptcDecode data).hamc.getLsbD k = (bptcDecode data').hamc.getLsbD k ∧
      (bptcDecode data).hamu.getLsbD k = (bptcDecode data').hamu.getLsbD k
    rw [getLsbD_hamc _ hk, getLsbD_hamc _ hk, getLsbD_hamu _ hk, getLsbD_hamu _ hk, hgroup]
    exact ⟨rfl, rfl⟩

end Sys2Proof.Machine
end

section
/-! PROOFS. Multiplication in GF(256) (42_rs.md R150, R151). The loop is additive in each operand, and an additive map
that commutes with the doubling of R150 passes through it; multiplication by a fixed byte is such a map, and
commutativity and associativity follow. -/

namespace Sys2Proof.Machine

theorem gfDouble_xor (a b : Byte) : gfDouble (a ^^^ b) = gfDouble a ^^^ gfDouble b := by
  rw [gfDouble, gfDouble, gfDouble, BitVec.getLsbD_xor, BitVec.shiftLeft_xor_distrib]
  cases a.getLsbD 7 <;> cases b.getLsbD 7 <;> simp [BitVec.xor_assoc, BitVec.xor_comm gfReduce]

/-! ### The loop -/

theorem gmultLoop_xor_left (n : Nat) (p q a c b : Byte) :
    gmultLoop n (p ^^^ q) (a ^^^ c) b = gmultLoop n p a b ^^^ gmultLoop n q c b := by
  induction n generalizing p q a c b with
  | zero => rfl
  | succ n ih =>
    rw [gmultLoop, gmultLoop, gmultLoop, gfDouble_xor]
    cases b.getLsbD 0 with
    | false => exact ih p q _ _ _
    | true =>
      rw [if_pos rfl, if_pos rfl, if_pos rfl, ← ih]
      congr 1
      ac_rfl

theorem gmultLoop_map {f : Byte → Byte} (hxor : ∀ a b, f (a ^^^ b) = f a ^^^ f b)
    (hdouble : ∀ a, f (gfDouble a) = gfDouble (f a)) (n : Nat) (p a b : Byte) :
    f (gmultLoop n p a b) = gmultLoop n (f p) (f a) b := by
  induction n generalizing p a b with
  | zero => rfl
  | succ n ih => rw [gmultLoop, ih, hdouble, apply_ite f, hxor, gmultLoop]

/-! ### The laws -/

theorem gmult_xor_left (a b c : Byte) : gmult (a ^^^ b) c = gmult a c ^^^ gmult b c :=
  gmultLoop_xor_left 8 0 0 a b c

/-- Doubling is additive and commutes with itself. -/
theorem gmult_gfDouble (a c : Byte) : gmult (gfDouble a) c = gfDouble (gmult a c) :=
  (gmultLoop_map gfDouble_xor (fun _ => rfl) 8 0 a c).symm

@[simp] theorem zero_gmult (a : Byte) : gmult 0#8 a = 0#8 := by
  simpa using gmult_xor_left 0#8 0#8 a

@[simp] theorem one_gmult : ∀ a : Byte, gmult 1#8 a = a := by decide +kernel

/-- Multiplication by c is additive and commutes with doubling. -/
theorem gmult_right_comm (a b c : Byte) : gmult (gmult a b) c = gmult (gmult a c) b := by
  have hmap := gmultLoop_map (f := (gmult · c)) (gmult_xor_left · · c) (gmult_gfDouble · c) 8 0#8 a b
  rwa [zero_gmult] at hmap

theorem gmult_comm (a b : Byte) : gmult a b = gmult b a := by
  simpa only [one_gmult] using gmult_right_comm 1#8 a b

theorem gmult_assoc (a b c : Byte) : gmult (gmult a b) c = gmult a (gmult b c) := by
  rw [gmult_comm a b, gmult_right_comm, gmult_comm]

theorem gmult_left_comm (a b c : Byte) : gmult a (gmult b c) = gmult b (gmult a c) := by
  rw [← gmult_assoc, gmult_comm a b, gmult_assoc]

theorem gmult_xor_right (a b c : Byte) : gmult a (b ^^^ c) = gmult a b ^^^ gmult a c := by
  rw [gmult_comm, gmult_xor_left, gmult_comm b, gmult_comm c]

@[simp] theorem gmult_zero (a : Byte) : gmult a 0#8 = 0#8 := by
  rw [gmult_comm, zero_gmult]

@[simp] theorem gmult_one (a : Byte) : gmult a 1#8 = a := by
  rw [gmult_comm, one_gmult]

/-! ### Powers -/

/-- The power n of a byte. -/
def gfPow (a : Byte) (n : Nat) : Byte := (gmult a)^[n] 1#8

@[simp] theorem gfPow_zero (a : Byte) : gfPow a 0 = 1#8 := rfl

theorem gfPow_succ (a : Byte) (n : Nat) : gfPow a (n + 1) = gmult a (gfPow a n) :=
  Function.iterate_succ_apply' ..

theorem gfPow_add (a : Byte) (m n : Nat) : gfPow a (m + n) = gmult (gfPow a m) (gfPow a n) := by
  induction m with
  | zero => rw [Nat.zero_add, gfPow_zero, one_gmult]
  | succ m ih => rw [Nat.succ_add, gfPow_succ, ih, gfPow_succ, gmult_assoc]

theorem gfPow_gmult (a b : Byte) (n : Nat) : gfPow (gmult a b) n = gmult (gfPow a n) (gfPow b n) := by
  induction n with
  | zero => rw [gfPow_zero, gfPow_zero, gfPow_zero, one_gmult]
  | succ n ih => rw [gfPow_succ, ih, gfPow_succ, gfPow_succ, gmult_assoc, gmult_left_comm b, gmult_assoc]

/-! ### The powers of 0x02 -/

/-- 0x8E is the inverse of 0x02. -/
theorem gmult_two_eq_zero_iff {a : Byte} : gmult 2#8 a = 0#8 ↔ a = 0#8 := by
  have hinv : gmult 0x8E#8 (gmult 2#8 a) = a := by
    rw [← gmult_assoc]
    exact one_gmult a
  refine ⟨fun h => ?_, fun h => by rw [h, gmult_zero]⟩
  rw [← hinv, h, gmult_zero]

theorem gfPow_two_ne_zero (n : Nat) : gfPow 2#8 n ≠ 0#8 := by
  induction n with
  | zero => decide
  | succ n ih =>
    rw [gfPow_succ]
    exact mt gmult_two_eq_zero_iff.1 ih

theorem gfPow_two_255 : gfPow 2#8 255 = 1 := by decide +kernel

/-- No proper divisor of 255 is a period. -/
theorem minimalPeriod_gmult_two : Function.minimalPeriod (gmult 2#8) 1#8 = 255 := by
  have hproper : ∀ d ∈ Nat.properDivisors 255, gfPow 2#8 d ≠ 1 := by decide +kernel
  have hdvd : Function.minimalPeriod (gmult 2#8) 1#8 ∣ 255 := Function.IsPeriodicPt.minimalPeriod_dvd gfPow_two_255
  by_contra hne
  have hlt := lt_of_le_of_ne (Nat.le_of_dvd (by decide) hdvd) hne
  exact hproper _ (Nat.mem_properDivisors.2 ⟨hdvd, hlt⟩) Function.iterate_minimalPeriod

theorem gfPow_two_inj {m n : Nat} (hm : m < 255) (hn : n < 255) : gfPow 2#8 m = gfPow 2#8 n ↔ m = n := by
  rw [← minimalPeriod_gmult_two] at hm hn
  exact Function.iterate_eq_iterate_iff_of_lt_minimalPeriod hm hn

theorem nodup_gfPow_two : ((List.range 255).map (gfPow 2#8)).Nodup :=
  List.nodup_range.map_on fun _ hm _ hn h => (gfPow_two_inj (List.mem_range.1 hm) (List.mem_range.1 hn)).1 h

/-- The powers are 255 different bytes, none of them 0, and no more than 255 bytes are not 0. -/
theorem exists_gfPow_two_eq {a : Byte} (ha : a ≠ 0#8) : ∃ n < 255, gfPow 2#8 n = a := by
  by_contra! hne
  have hnodup : (0#8 :: a :: (List.range 255).map (gfPow 2#8)).Nodup := by
    refine List.nodup_cons.2 ⟨?_, List.nodup_cons.2 ⟨?_, nodup_gfPow_two⟩⟩
    · simp [gfPow_two_ne_zero, ha.symm]
    · simpa using hne
  have hlen : 257 ≤ Fintype.card Byte := by simpa using hnodup.length_le_card
  rw [← FinEnum.card_eq_fintypeCard, FinEnum.card_bitVec] at hlen
  exact absurd hlen (by decide)

theorem gmult_eq_zero_iff {a b : Byte} : gmult a b = 0#8 ↔ a = 0#8 ∨ b = 0#8 := by
  refine ⟨fun h => ?_, fun h => ?_⟩
  · by_contra! hne
    obtain ⟨m, -, rfl⟩ := exists_gfPow_two_eq hne.1
    obtain ⟨n, -, rfl⟩ := exists_gfPow_two_eq hne.2
    rw [← gfPow_add] at h
    exact gfPow_two_ne_zero _ h
  · obtain rfl | rfl := h <;> simp

end Sys2Proof.Machine
end

section
/-! PROOFS. `GF.MUL` and the facts of the field (42_rs.md R151, R154). -/

namespace Sys2Proof.Machine

/-- Settles O39: two bytes by `exec_gfMul` and the laws of the field, any other number by `requireLen_failure`. -/
theorem gfMulResult : Obligations.GfMulResult := by
  refine ⟨fun data s => ⟨?_, fun hlen => requireLen_failure hlen s _⟩, fun a b s => ?_, by decide⟩
  · exact encodedN_of_opc (i := .gfMul data) (by simp [Instr.opc])
  · have hswap : exec (.gfMul [b, a]) s = .next ((leftOut s 0 0 0 [gmult a b]).apply s) := by
      rw [gmult_comm a b]
      exact exec_gfMul rfl s
    refine ⟨_, exec_gfMul rfl s, keepsGroups_leftOut .., leaves_leftOut s 0 0 0 (by simp), hswap, ?_, ?_⟩
    · rintro rfl
      exact zero_gmult b
    · rintro rfl
      exact one_gmult b

/-- Settles O40: the laws hold because multiplication by a byte is additive and commutes with doubling
(`gmult_right_comm`); 255 has no proper divisor that is a period of the powers (`minimalPeriod_gmult_two`), and
there are only 255 non-zero bytes for them (`exists_gfPow_two_eq`). -/
theorem gfFieldLaws : Obligations.GfFieldLaws := by
  refine ⟨fun a b c => ⟨gmult_zero a, zero_gmult a, gmult_one a, gmult_comm a b, gmult_assoc a b c,
    gmult_xor_right a b c⟩, ⟨nodup_gfPow_two, gfPow_two_ne_zero, ?_, ?_, fun _ ha => exists_gfPow_two_eq ha⟩,
    by decide, by decide, by decide⟩
  · exact gfPow_two_255
  · decide +kernel

end Sys2Proof.Machine
end

section
/-! PROOFS. The Reed-Solomon code (42_rs.md R152, R153): the parity register is additive, a word is a polynomial by
Horner's rule, a codeword vanishes at the roots of the generator, and a word with n or fewer non-zero bytes that
vanishes at the first n powers of 0x02 is zero. -/

namespace Sys2Proof.Machine

/-! ### Linearity -/

/-- The exclusive-or of two words, byte by byte. -/
def xorWords (x y : List Byte) : List Byte := List.zipWith (· ^^^ ·) x y

@[simp] theorem length_xorWords (x y : List Byte) : (xorWords x y).length = min x.length y.length :=
  List.length_zipWith

theorem xorWords_cons (a b : Byte) (x y : List Byte) :
    xorWords (a :: x) (b :: y) = (a ^^^ b) :: xorWords x y := rfl

/-- The exclusive-or of two parity registers, slot by slot. -/
def RsReg.xor (r q : RsReg) : RsReg := ⟨r.reg0 ^^^ q.reg0, r.reg1 ^^^ q.reg1, r.reg2 ^^^ q.reg2⟩

theorem rsStep_xor (r q : RsReg) (a b : Byte) : rsStep (r.xor q) (a ^^^ b) = (rsStep r a).xor (rsStep q b) := by
  have hin : a ^^^ b ^^^ (r.reg2 ^^^ q.reg2) = (a ^^^ r.reg2) ^^^ (b ^^^ q.reg2) := by ac_rfl
  simp only [rsStep, RsReg.xor, hin, gmult_xor_right, RsReg.mk.injEq, true_and]
  constructor <;> ac_rfl

theorem foldl_rsStep_xorWords {a b : List Byte} (h : a.length = b.length) (r q : RsReg) :
    (xorWords a b).foldl rsStep (r.xor q) = (a.foldl rsStep r).xor (b.foldl rsStep q) := by
  induction a generalizing b r q with
  | nil => rw [List.eq_nil_of_length_eq_zero h.symm]; rfl
  | cons x a ih =>
    obtain ⟨y, b, rfl⟩ := List.exists_cons_of_length_eq_add_one h.symm
    rw [xorWords_cons, List.foldl_cons, rsStep_xor, ih (Nat.succ.inj h), List.foldl_cons, List.foldl_cons]

theorem rsEncode_xorWords {a b : List Byte} (h : a.length = b.length) :
    rsEncode (xorWords a b) = xorWords (rsEncode a) (rsEncode b) := by
  have hparity : rsParity (xorWords a b) = (rsParity a).xor (rsParity b) :=
    foldl_rsStep_xorWords h ⟨0, 0, 0⟩ ⟨0, 0, 0⟩
  rw [rsEncode, hparity]
  rfl

/-! ### Words as polynomials -/

/-- The value at r of a word, index 0 the highest power. -/
def evalWord (r : Byte) : List Byte → Byte
  | [] => 0#8
  | b :: word => gmult (gfPow r word.length) b ^^^ evalWord r word

/-- One step of Horner's rule. -/
def hornerStep (r acc b : Byte) : Byte := gmult r acc ^^^ b

theorem foldl_hornerStep (r acc : Byte) (word : List Byte) :
    word.foldl (hornerStep r) acc = gmult (gfPow r word.length) acc ^^^ evalWord r word := by
  induction word generalizing acc with
  | nil => simp [evalWord]
  | cons b word ih =>
    rw [List.foldl_cons, ih, hornerStep, gmult_xor_right, evalWord, List.length_cons, gfPow_succ, ← gmult_assoc,
      gmult_comm (gfPow r _) r, BitVec.xor_assoc]

theorem foldl_hornerStep_zero (r : Byte) (word : List Byte) : word.foldl (hornerStep r) 0#8 = evalWord r word := by
  rw [foldl_hornerStep]
  simp

theorem evalWord_xorWords {x y : List Byte} (h : x.length = y.length) (r : Byte) :
    evalWord r (xorWords x y) = evalWord r x ^^^ evalWord r y := by
  induction x generalizing y with
  | nil => rw [List.eq_nil_of_length_eq_zero h.symm]; exact BitVec.xor_self.symm
  | cons a x ih =>
    obtain ⟨b, y, rfl⟩ := List.exists_cons_of_length_eq_add_one h.symm
    have hxy := Nat.succ.inj h
    have hlen : (xorWords x y).length = x.length := by simp [hxy]
    rw [xorWords_cons, evalWord, ih hxy, gmult_xor_right, hlen, evalWord, evalWord, ← hxy]
    ac_rfl

/-! ### The roots of a codeword -/

/-- The parity bytes of a register, in the order of R153. -/
def RsReg.word (reg : RsReg) : List Byte := [reg.reg2, reg.reg1, reg.reg0]

theorem evalWord_word (r : Byte) (reg : RsReg) :
    evalWord r reg.word = gmult (gfPow r 2) reg.reg2 ^^^ (gmult (gfPow r 1) reg.reg1 ^^^ reg.reg0) := by
  simp [RsReg.word, evalWord]

/-- r is a root of the generator polynomial (R151). -/
def IsGeneratorRoot (r : Byte) : Prop :=
  gfPow r 3 = gmult (gfPow r 2) 14 ^^^ (gmult (gfPow r 1) 56 ^^^ 64)

section
variable {r : Byte} (hr : IsGeneratorRoot r)
include hr

/-- At a root, a step of the register is a step of the polynomial division by the generator. -/
theorem evalWord_rsStep (reg : RsReg) (b : Byte) :
    evalWord r (rsStep reg b).word = gmult r (evalWord r reg.word) ^^^ gmult (gfPow r 3) b := by
  have hsplit (d : Byte) : gmult (gfPow r 3) d =
      gmult (gfPow r 2) (gmult 14 d) ^^^ (gmult (gfPow r 1) (gmult 56 d) ^^^ gmult 64 d) := by
    rw [hr, gmult_xor_left, gmult_xor_left, gmult_assoc, gmult_assoc]
  calc evalWord r (rsStep reg b).word
    _ = gmult (gfPow r 2) reg.reg1 ^^^ (gmult (gfPow r 1) reg.reg0 ^^^ gmult (gfPow r 3) (b ^^^ reg.reg2)) := by
      rw [hsplit, evalWord_word]
      simp only [rsStep, gmult_xor_right]
      ac_rfl
    _ = gmult r (evalWord r reg.word) ^^^ gmult (gfPow r 3) b := by
      rw [evalWord_word]
      simp only [gfPow_succ, gfPow_zero, gmult_one, gmult_xor_right, gmult_assoc]
      ac_rfl

theorem evalWord_rsParity_of_eq {reg : RsReg} {acc : Byte} (h : gmult (gfPow r 3) acc = evalWord r reg.word)
    (msg : List Byte) :
    gmult (gfPow r 3) (msg.foldl (hornerStep r) acc) = evalWord r (msg.foldl rsStep reg).word := by
  induction msg generalizing reg acc with
  | nil => exact h
  | cons b msg ih =>
    refine ih ?_
    rw [evalWord_rsStep hr, ← h, hornerStep, gmult_xor_right, gmult_left_comm]

theorem foldl_hornerStep_codeword (msg : List Byte) : (msg ++ rsEncode msg).foldl (hornerStep r) 0#8 = 0#8 := by
  have hzero : gmult (gfPow r 3) 0#8 = evalWord r (RsReg.word ⟨0, 0, 0⟩) := by simp [evalWord, RsReg.word]
  rw [List.foldl_append, foldl_hornerStep, length_rsEncode, evalWord_rsParity_of_eq hr hzero]
  exact BitVec.xor_self

end

/-! ### Distance -/

/-- The number of non-zero bytes of a word. -/
def byteWeight (word : List Byte) : Nat := word.countP (· != 0#8)

theorem byteWeight_cons_zero (word : List Byte) : byteWeight (0#8 :: word) = byteWeight word := by
  simp [byteWeight]

theorem byteWeight_cons_of_ne {b : Byte} (word : List Byte) (h : b ≠ 0#8) :
    byteWeight (b :: word) = byteWeight word + 1 := by
  simp [byteWeight, h]

theorem byteWeight_cons_le (b : Byte) (word : List Byte) : byteWeight (b :: word) ≤ byteWeight word + 1 := by
  rw [byteWeight, List.countP_cons]
  split <;> simp [byteWeight]

theorem evalWord_eq_zero {word : List Byte} (h : ∀ b ∈ word, b = 0#8) (r : Byte) : evalWord r word = 0#8 := by
  induction word with
  | nil => rfl
  | cons b word ih =>
    obtain ⟨rfl, hword⟩ := List.forall_mem_cons.1 h
    simp [evalWord, ih hword]

/-- Each byte multiplied by the exclusive-or of its locator, the power of 0x02 at its place, and c. -/
def scaleByLocator (c : Byte) : List Byte → List Byte
  | [] => []
  | b :: word => gmult (gfPow 2#8 word.length ^^^ c) b :: scaleByLocator c word

@[simp] theorem length_scaleByLocator (c : Byte) (word : List Byte) :
    (scaleByLocator c word).length = word.length := by
  induction word with
  | nil => rfl
  | cons b word ih => rw [scaleByLocator, List.length_cons, ih, List.length_cons]

/-- The value of a scaled word is told by two values of the word, of which one is at the next power. -/
theorem evalWord_scaleByLocator (r c : Byte) (word : List Byte) :
    evalWord r (scaleByLocator c word) = evalWord (gmult 2#8 r) word ^^^ gmult c (evalWord r word) := by
  induction word with
  | nil => simp [evalWord, scaleByLocator]
  | cons b word ih =>
    rw [scaleByLocator, evalWord, ih, evalWord, evalWord, length_scaleByLocator, gfPow_gmult, gmult_xor_left,
      gmult_xor_right, gmult_xor_right, gmult_left_comm c, gmult_left_comm (gfPow r _), ← gmult_assoc]
    ac_rfl

/-- The locator of the first byte clears it. -/
theorem evalWord_scaleByLocator_tail (r b : Byte) (word : List Byte) :
    evalWord r (scaleByLocator (gfPow 2#8 word.length) word) =
      evalWord (gmult 2#8 r) (b :: word) ^^^ gmult (gfPow 2#8 word.length) (evalWord r (b :: word)) := by
  rw [← evalWord_scaleByLocator]
  simp [scaleByLocator, evalWord]

theorem byteWeight_scaleByLocator_le (c : Byte) (word : List Byte) :
    byteWeight (scaleByLocator c word) ≤ byteWeight word := by
  induction word with
  | nil => rfl
  | cons b word ih =>
    rw [scaleByLocator]
    by_cases hb : b = 0#8
    · rwa [hb, gmult_zero, byteWeight_cons_zero, byteWeight_cons_zero]
    · rw [byteWeight_cons_of_ne _ hb]
      exact (byteWeight_cons_le _ _).trans (Nat.add_le_add_right ih 1)

/-- At the places below n, and while the powers of 0x02 are different, nothing is scaled to 0. -/
theorem eq_zero_of_scaleByLocator {n : Nat} (hn : n < 255) {word : List Byte} (hlen : word.length ≤ n)
    (h : ∀ b ∈ scaleByLocator (gfPow 2#8 n) word, b = 0#8) : ∀ b ∈ word, b = 0#8 := by
  induction word with
  | nil => simp
  | cons b word ih =>
    obtain ⟨hb, hword⟩ := List.forall_mem_cons.1 h
    rw [List.length_cons] at hlen
    refine List.forall_mem_cons.2 ⟨(gmult_eq_zero_iff.1 hb).resolve_left fun hlocator => ?_, ih (by omega) hword⟩
    have hplace := (gfPow_two_inj (by omega) hn).1 (BitVec.xor_eq_zero_iff.1 hlocator)
    omega

/-- A word with at most n non-zero bytes that vanishes at the first n powers of 0x02 is zero: scaling by the locator of
the first non-zero byte clears that byte and costs one root. -/
theorem eq_zero_of_evalWord_eq_zero {n : Nat} {word : List Byte} (hlen : word.length ≤ 255)
    (hweight : byteWeight word ≤ n) (hroot : ∀ m < n, evalWord (gfPow 2#8 (m + 1)) word = 0#8) :
    ∀ b ∈ word, b = 0#8 := by
  induction n generalizing word with
  | zero => simpa [byteWeight] using hweight
  | succ n ih =>
    induction word with
    | nil => simp
    | cons b word ihword =>
      rw [List.length_cons] at hlen
      by_cases hb : b = 0#8
      · subst hb
        rw [byteWeight_cons_zero] at hweight
        refine List.forall_mem_cons.2 ⟨rfl, ihword (by omega) hweight fun m hm => ?_⟩
        simpa [evalWord] using hroot m hm
      · rw [byteWeight_cons_of_ne _ hb, Nat.add_le_add_iff_right] at hweight
        have hscaled : ∀ m < n, evalWord (gfPow 2#8 (m + 1)) (scaleByLocator (gfPow 2#8 word.length) word) = 0#8 := by
          intro m hm
          rw [evalWord_scaleByLocator_tail _ b, ← gfPow_succ, hroot m (by omega), hroot (m + 1) (by omega)]
          simp
        have htail := eq_zero_of_scaleByLocator (n := word.length) (by omega) le_rfl
          (ih (by rw [length_scaleByLocator]; omega) ((byteWeight_scaleByLocator_le _ word).trans hweight) hscaled)
        have hfirst : evalWord 2#8 (b :: word) = 0#8 := by simpa [gfPow_succ] using hroot 0 (by omega)
        rw [evalWord, evalWord_eq_zero htail, BitVec.xor_zero, gmult_eq_zero_iff] at hfirst
        exact absurd hfirst (not_or.2 ⟨gfPow_two_ne_zero _, hb⟩)

end Sys2Proof.Machine
end

section
/-! PROOFS. `RS.ENCODE` and `RS.CHECK` (42_rs.md R155 to R157). -/

namespace Sys2Proof.Machine

/-! ### The check -/

theorem rsCheck_eq {data : List Byte} (hlen : data.length = 12) :
    rsCheck data = (data.drop 9 == rsEncode (data.take 9)) := by
  have htrailer : [ibuf data 9, ibuf data 10, ibuf data 11] = data.drop 9 := by
    obtain ⟨a, b, c, h⟩ := List.length_eq_three.1 (show (data.drop 9).length = 3 by simp [hlen])
    have hbyte (k : Nat) : ibuf data (9 + k) = (data.drop 9).getD k 0#8 := by simp [ibuf]
    simp [hbyte 0, hbyte 1, hbyte 2, h]
  rw [rsCheck, htrailer]
  rfl

theorem rsCheck_append {msg parity : List Byte} (hmsg : msg.length = 9) (hparity : parity.length = 3) :
    rsCheck (msg ++ parity) = (parity == rsEncode msg) := by
  rw [rsCheck_eq (by simp [hmsg, hparity])]
  simp [← hmsg]

theorem rsCheck_zeros : rsCheck (List.replicate 12 0) = true := by decide

/-- Reversing three bytes keeps the middle one. -/
theorem reverse_beq_self (a b c : Byte) : ([a, b, c].reverse == [a, b, c]) = (a == c) := by
  rw [Bool.eq_iff_iff, beq_iff_eq, beq_iff_eq]
  simpa using Eq.symm

/-- A word that is accepted is the codeword of its first nine bytes. -/
theorem eq_codeword_of_rsCheck {data : List Byte} (hlen : data.length = 12) (h : rsCheck data = true) :
    data = data.take 9 ++ rsEncode (data.take 9) := by
  rw [rsCheck_eq hlen, beq_iff_eq] at h
  rw [← h, List.take_append_drop]

/-- One parity byte changed is no parity (R157). -/
theorem rsCheck_set {msg : List Byte} (hmsg : msg.length = 9) {k : Nat} {b : Byte} (hk : 9 ≤ k) (hk' : k ≤ 11)
    (hb : b ≠ (msg ++ rsEncode msg).getD k 0#8) : rsCheck ((msg ++ rsEncode msg).set k b) = false := by
  rw [List.set_append_right _ _ (by omega), rsCheck_append hmsg (by simp), beq_eq_false_iff_ne]
  rw [List.getD_append_right _ _ _ _ (by omega)] at hb
  intro hset
  apply hb
  have hread := congrArg (·.getD (k - msg.length) 0#8) hset
  simpa [show k - msg.length < 3 by omega] using hread

/-! ### Two accepted words -/

theorem isGeneratorRoot_gfPow : ∀ m < 3, IsGeneratorRoot (gfPow 2#8 (m + 1)) := by
  unfold IsGeneratorRoot
  decide

theorem evalWord_of_rsCheck {data : List Byte} (hlen : data.length = 12) (h : rsCheck data = true) {r : Byte}
    (hr : IsGeneratorRoot r) : evalWord r data = 0#8 := by
  rw [eq_codeword_of_rsCheck hlen h, ← foldl_hornerStep_zero]
  exact foldl_hornerStep_codeword hr _

/-- The places where two words differ are the non-zero bytes of their exclusive-or. -/
theorem countP_getD_ne {x y : List Byte} (h : x.length = y.length) :
    (List.range x.length).countP (fun k => x.getD k 0 != y.getD k 0) = byteWeight (xorWords x y) := by
  have hwords : xorWords x y = (List.range x.length).map (fun k => x.getD k 0 ^^^ y.getD k 0) :=
    List.ext_getElem (by simp [h]) fun k _ hk => by
      have hx : k < x.length := by simpa using hk
      have hy : k < y.length := h ▸ hx
      simp [xorWords, hx, hy]
  rw [byteWeight, hwords, List.countP_map]
  refine List.countP_congr fun k _ => ?_
  simp

theorem eq_of_xorWords_eq_zero {x y : List Byte} (h : x.length = y.length) (hzero : ∀ b ∈ xorWords x y, b = 0#8) :
    x = y := by
  refine List.ext_getElem h fun k hx hy => ?_
  have hk : k < (xorWords x y).length := by simp [hx, hy]
  have hbyte := hzero _ (List.getElem_mem hk)
  simpa [xorWords] using hbyte

/-- Two accepted words that differ in at most three bytes are the same (R157). -/
theorem eq_of_rsCheck {x y : List Byte} (hx : x.length = 12) (hy : y.length = 12) (hcx : rsCheck x = true)
    (hcy : rsCheck y = true) (hweight : byteWeight (xorWords x y) ≤ 3) : x = y := by
  have hxy : x.length = y.length := hx.trans hy.symm
  refine eq_of_xorWords_eq_zero hxy (eq_zero_of_evalWord_eq_zero (by simp [hx, hy]) hweight fun m hm => ?_)
  have hr := isGeneratorRoot_gfPow m hm
  rw [evalWord_xorWords hxy, evalWord_of_rsCheck hx hcx hr, evalWord_of_rsCheck hy hcy hr, BitVec.xor_self]

/-! ### The obligations -/

/-- Settles O41: nine bytes by `exec_rsEncode`, any other number by `requireLen_failure`. -/
theorem rsEncodeResult : Obligations.RsEncodeResult := by
  refine ⟨fun msg s => ⟨?_, fun hlen => ?_, fun hlen => requireLen_failure hlen s _⟩, by decide, by decide⟩
  · exact encodedN_of_opc (i := .rsEncode msg) (by simp [Instr.opc])
  · exact ⟨_, exec_rsEncode hlen s, keepsGroups_leftOut .., length_rsEncode msg, leaves_leftOut s 0 0 0 (by simp)⟩

/-- Settles O42: twelve bytes by `exec_rsCheck` and `rsCheck_eq`; the middle of three bytes stays when they are
reversed, so only the outer two decide. -/
theorem rsCheckResult : Obligations.RsCheckResult := by
  refine ⟨fun data s => ⟨?_, fun hlen => ?_, fun hlen => requireLen_failure hlen s _⟩, fun s => ?_,
    fun msg s hmsg => ?_⟩
  · exact encodedN_of_opc (i := .rsCheck data) (by simp [Instr.opc])
  · refine ⟨_, exec_rsCheck hlen s, ⟨rfl, rfl, rfl⟩, ?_⟩
    rw [← rsCheck_eq hlen]
    exact Left.leaves (l := leftTruth s (rsCheck data) 0) (Nat.zero_le _) s
  · exact ⟨_, exec_rsCheck (by simp) s, rsCheck_zeros⟩
  · refine ⟨_, exec_rsCheck (by simp [hmsg]) s, (rsCheck_append hmsg (by simp)).trans ?_⟩
    exact reverse_beq_self _ _ _

/-- Settles O43: what the host reads back of `RS.ENCODE` is `rsEncode msg`, for which the function's two statements
are `rsCheck_append` and `rsCheck_set`. -/
theorem rsSelfConsistency : Obligations.RsSelfConsistency := by
  intro msg s hmsg
  have hread := firstBytes_leftOut s 0 0 0 (length_rsEncode msg) (by decide)
  refine ⟨(leftOut s 0 0 0 (rsEncode msg)).apply s, ?_⟩
  rw [hread]
  refine ⟨_, exec_rsEncode hmsg s, exec_rsCheck (by simp [hmsg]) _, ?_, fun k b hk hk' hb =>
    ⟨_, exec_rsCheck (by simp [hmsg]) _, ?_⟩⟩
  · exact (rsCheck_append hmsg (by simp)).trans (beq_self_eq_true _)
  · exact rsCheck_set hmsg hk hk' hb

/-- Settles O44: the register is additive (`rsEncode_xorWords`), a codeword vanishes at the roots of the generator
(`foldl_hornerStep_codeword`), and no two accepted words are closer than four bytes (`eq_of_rsCheck`). -/
theorem rsCodewordRootsAndDistance : Obligations.RsCodewordRootsAndDistance := by
  refine ⟨fun a b ha hb => rsEncode_xorWords (ha.trans hb.symm), fun msg root _ hroot => ?_,
    fun x y s t hx hy ht htrue hne hcount => ⟨_, exec_rsCheck hy s, ?_⟩⟩
  · have hroots : ∀ r ∈ ([0x02, 0x04, 0x08] : List Byte), IsGeneratorRoot r := by
      unfold IsGeneratorRoot
      decide
    exact foldl_hornerStep_codeword (hroots root hroot) msg
  · obtain rfl : _ = t := by simpa [exec_rsCheck hx] using ht
    rw [← hx, countP_getD_ne (hx.trans hy.symm)] at hcount
    exact Bool.eq_false_iff.2 fun hcy => hne (eq_of_rsCheck hx hy htrue hcy (by omega))

end Sys2Proof.Machine
end

section
/-! PROOFS. Gathering and scattering the slot-type bits (43_golay.md R173, R177). -/

namespace Sys2Proof.Machine

section
variable {α : Type} {l : List Nat} {p : Nat → Nat} {f : Nat → α} {v : List α} {d : α}

/-- A run of writes leaves every other place as it was. -/
theorem getD_foldl_set_of_ne {i : Nat} (h : ∀ k ∈ l, p k ≠ i) :
    (l.foldl (fun v k => v.set (p k) (f k)) v).getD i d = v.getD i d := by
  induction l generalizing v with
  | nil => rfl
  | cons a l ih =>
    rw [List.foldl_cons, ih fun k hk => h k (by simp [hk]), List.getD_eq_getElem?_getD,
      List.getElem?_set_ne (h a (by simp)), ← List.getD_eq_getElem?_getD]

/-- A run of writes to different places leaves each value at its place. -/
theorem getD_foldl_set {k : Nat} (hinj : ∀ j ∈ l, p j = p k → j = k) (hk : k ∈ l) (hlt : p k < v.length) :
    (l.foldl (fun v k => v.set (p k) (f k)) v).getD (p k) d = f k := by
  induction l generalizing v with
  | nil => cases hk
  | cons a l ih =>
    rw [List.foldl_cons]
    by_cases hl : k ∈ l
    · exact ih (fun j hj => hinj j (by simp [hj])) hl (by simpa using hlt)
    · obtain rfl : k = a := by simpa [hl] using hk
      have hne : ∀ j ∈ l, p j ≠ p k := fun j hj hjk => hl (hinj j (List.mem_cons_of_mem _ hj) hjk ▸ hj)
      rw [getD_foldl_set_of_ne hne]
      simp [hlt]

end

theorem getMsbD_slotGet (c : Config) (frame : List Byte) {k : Nat} (hk : k < 20) :
    (slotGet c frame).getMsbD k = bitAt frame (slotPos c k) := by
  rw [slotGet, getMsbD_ofBitsMsb, decide_eq_true hk, Bool.true_and, getD_bitsOf_eq_bitAt _ (slotPos_lt c k)]

/-- The word gathered depends on the map bits only. -/
theorem slotGet_congr {c : Config} {frame frame' : List Byte}
    (h : ∀ k < 20, bitAt frame (slotPos c k) = bitAt frame' (slotPos c k)) : slotGet c frame = slotGet c frame' :=
  BitVec.eq_of_getMsbD_eq fun k hk => by rw [getMsbD_slotGet c frame hk, getMsbD_slotGet c frame' hk, h k hk]

theorem bitAt_slotPut_slotPos {c : Config} (hc : c.SlotDistinct) (frame : List Byte) (w : Codeword) {k : Nat}
    (hk : k < 20) : bitAt (slotPut c frame w) (slotPos c k) = w.getMsbD k := by
  rw [slotPut, bitAt_pack]
  exact getD_foldl_set (fun j hj => hc j k (List.mem_range.1 hj) hk) (List.mem_range.2 hk)
    (by simpa using slotPos_lt c k)

theorem bitAt_slotPut_of_ne {c : Config} (frame : List Byte) (w : Codeword) {i : Nat} (hi : i < 168)
    (h : ∀ k < 20, slotPos c k ≠ i) : bitAt (slotPut c frame w) i = bitAt frame i := by
  rw [slotPut, bitAt_pack, getD_foldl_set_of_ne fun k hk => h k (List.mem_range.1 hk), getD_bitsOf_eq_bitAt _ hi]

theorem slotGet_slotPut {c : Config} (hc : c.SlotDistinct) (frame : List Byte) (w : Codeword) :
    slotGet c (slotPut c frame w) = w :=
  BitVec.eq_of_getMsbD_eq fun k hk => by rw [getMsbD_slotGet c _ hk, bitAt_slotPut_slotPos hc frame w hk]

/-- Settles O48: the statement numbers a word's bits from the least significant, the lemmas from the most. -/
theorem slotGetPut : Obligations.SlotGetPut := by
  intro c frame w hc _
  have hmsb : ∀ (x : Codeword), ∀ k < 20, x.getLsbD (19 - k) = x.getMsbD k := fun x k hk => by
    rw [BitVec.getMsbD, decide_eq_true hk, Bool.true_and]
  refine ⟨fun k hk => ?_, length_slotPut c frame w, fun k hk => ?_, fun i => bitAt_slotPut_of_ne frame w,
    slotGet_slotPut hc frame w⟩
  · rw [hmsb _ k hk, getMsbD_slotGet c frame hk]
  · rw [hmsb _ k hk, bitAt_slotPut_slotPos hc frame w hk]

end Sys2Proof.Machine
end

section
/-! PROOFS. The distance of R10, the code and its decoder of radius 3 (43_golay.md R170 to R172). -/

namespace Sys2Proof.Machine

/-! ### Weight and distance -/

theorem wt_zero (n : Nat) : wt (0#n) = 0 := by
  simp [wt]

theorem countP_xor_le (p q : Nat → Bool) (l : List Nat) :
    l.countP (fun i => p i ^^ q i) ≤ l.countP p + l.countP q := by
  induction l with
  | nil => simp
  | cons a l ih =>
    have hbit : (if (p a ^^ q a) then 1 else 0) ≤ (if p a then 1 else 0) + (if q a then 1 else 0) := by
      cases p a <;> cases q a <;> decide
    simp only [List.countP_cons]
    omega

theorem wt_xor_le {n : Nat} (a b : BitVec n) : wt (a ^^^ b) ≤ wt a + wt b := by
  simp only [wt, BitVec.getLsbD_xor]
  exact countP_xor_le _ _ _

theorem dist_self {n : Nat} (a : BitVec n) : dist a a = 0 := by
  rw [dist, BitVec.xor_self, wt_zero]

theorem dist_xor_left {n : Nat} (a e : BitVec n) : dist (a ^^^ e) a = wt e := by
  rw [dist, BitVec.xor_comm a e, BitVec.xor_assoc, BitVec.xor_self, BitVec.xor_zero]

/-- Two words near a third are near each other. -/
theorem dist_le_add {n : Nat} (r a b : BitVec n) : dist a b ≤ dist r a + dist r b := by
  have h : a ^^^ b = (r ^^^ a) ^^^ (r ^^^ b) := by
    rw [BitVec.xor_comm r a, BitVec.xor_assoc, ← BitVec.xor_assoc r r b, BitVec.xor_self, BitVec.zero_xor]
  rw [dist, h]
  exact wt_xor_le _ _

/-! ### The check bits are linear -/

/-- Row k of `GOLAY_PAR` where bit k of the byte, most significant first, selects it. -/
def golayTerm (c : Config) (m : Byte) (k : Nat) : BitVec 12 :=
  if m.getMsbD k then c.golayRows.toList.getD k 0 else 0

theorem golayTerm_xor (c : Config) (a b : Byte) (k : Nat) :
    golayTerm c (a ^^^ b) k = golayTerm c a k ^^^ golayTerm c b k := by
  simp only [golayTerm, BitVec.getMsbD_xor]
  cases a.getMsbD k <;> cases b.getMsbD k <;> simp

theorem golayPar_eq (c : Config) (m : Byte) :
    golayPar c m = (List.range 8).foldl (fun acc k => acc ^^^ golayTerm c m k) 0 := by
  rw [golayPar]
  congr 1
  funext acc k
  rw [golayTerm]
  split <;> simp

/-- `GOLAY_PAR` is linear (R170): its eight terms are. -/
theorem golayPar_xor (c : Config) (a b : Byte) : golayPar c (a ^^^ b) = golayPar c a ^^^ golayPar c b := by
  simp only [golayPar_eq, golayTerm_xor, List.range, List.range.loop, List.foldl_cons, List.foldl_nil,
    BitVec.ofNat_eq_ofNat, BitVec.zero_xor]
  ac_rfl

theorem golayCw_xor (c : Config) (a b : Byte) : golayCw c (a ^^^ b) = golayCw c a ^^^ golayCw c b := by
  rw [golayCw, golayCw, golayCw, golayPar_xor, BitVec.xor_append]

theorem golayCw_zero (c : Config) : golayCw c 0 = 0 := by
  simpa using golayCw_xor c 0 0

/-! ### The decoder under `golay_dmin7` -/

section
variable {c : Config}

/-- The decoder finds nothing exactly when no codeword is within radius 3 (R172). -/
theorem golayDecode_eq_none_iff {r : Codeword} :
    golayDecode c r = none ↔ ∀ m : Byte, 3 < dist r (golayCw c m) := by
  rw [golayDecode, List.findSome?_eq_none_iff]
  constructor
  · intro h m
    simpa using h m.toNat (List.mem_range.2 m.isLt)
  · intro h a _
    exact if_neg (Nat.not_le.2 (h _))

/-- Under `golay_dmin7` at most one codeword is within radius 3 (R172). -/
theorem eq_of_dist_le (hc : c.GolayDmin7) {r : Codeword} {a b : Byte} (ha : dist r (golayCw c a) ≤ 3)
    (hb : dist r (golayCw c b) ≤ 3) : a = b := by
  by_contra hab
  have hfar := hc a b hab
  have hnear := dist_le_add r (golayCw c a) (golayCw c b)
  omega

/-- Under `golay_dmin7` the decoder finds the codeword within radius 3, whichever it is (R172). -/
theorem golayDecode_of_dist_le (hc : c.GolayDmin7) {r : Codeword} {m : Byte} (hm : dist r (golayCw c m) ≤ 3) :
    golayDecode c r = some (m, dist r (golayCw c m)) := by
  cases hd : golayDecode c r with
  | none => exact absurd (golayDecode_eq_none_iff.1 hd m) (Nat.not_lt.2 hm)
  | some found =>
    obtain ⟨m', n⟩ := found
    obtain ⟨rfl, hle⟩ := golayDecode_some hd
    rw [eq_of_dist_le hc hle hm]

end

/-- The information byte of a slot type is its color code and data type (R174). -/
theorem slotTypeOf_cc_append_dt (m : Byte) (n : Nat) : (slotTypeOf m n).cc ++ (slotTypeOf m n).dt = m := by
  rw [slotTypeOf, BitVec.extractLsb'_append_extractLsb'_eq_extractLsb' (by omega), BitVec.extractLsb'_eq_self]

theorem slotTypeOf_append (cc dt : BitVec 4) (n : Nat) :
    slotTypeOf (cc ++ dt) n = { v := true, cc := cc, dt := dt, nerr := BitVec.ofNat 2 n } := by
  rw [slotTypeOf, BitVec.extractLsb'_append_eq_left, BitVec.extractLsb'_append_eq_right]

/-- The error count fits in `NERR`. -/
theorem toNat_nerr_slotTypeOf (m : Byte) {n : Nat} (h : n ≤ 3) : (slotTypeOf m n).nerr.toNat = n := by
  rw [slotTypeOf, BitVec.toNat_ofNat]
  omega

/-- The weights of the default code, over its 255 nonzero codewords; by linearity, its distances. -/
theorem le_wt_golayCw_default : ∀ m : Byte, m ≠ 0 → 8 ≤ wt (golayCw defaultConfig m) := by decide +kernel

theorem le_dist_golayCw_default {a b : Byte} (h : a ≠ b) :
    8 ≤ dist (golayCw defaultConfig a) (golayCw defaultConfig b) := by
  rw [dist, ← golayCw_xor]
  exact le_wt_golayCw_default _ fun h0 => h (BitVec.xor_eq_zero_iff.1 h0)

theorem defaultConfig_wf : defaultConfig.WF where
  opcodes_differ := by decide
  golay_dmin7 _ _ h := (by decide : 7 ≤ 8).trans (le_dist_golayCw_default h)
  slot_distinct j k hj hk := by
    have hinj : ∀ j < 20, ∀ k < 20, slotPos defaultConfig j = slotPos defaultConfig k → j = k := by decide +kernel
    exact hinj j hj k hk

/-- Settles O49: linearity for every configuration (`golayPar_xor`); for the default one the 256 check bits and the
255 nonzero weights. -/
theorem golayCodeLinearAndDefaultDistance : Obligations.GolayCodeLinearAndDefaultDistance := by
  refine ⟨fun c a b => ⟨golayPar_xor c a b, ?_, ?_⟩, ?_, fun a b h => le_dist_golayCw_default h, defaultConfig_wf⟩
  · exact BitVec.extractLsb'_append_eq_left
  · exact BitVec.extractLsb'_append_eq_right
  · decide +kernel

end Sys2Proof.Machine
end

section
/-! PROOFS. `GOLAY.DECODE` and `GOLAY.ENCODE` (43_golay.md R175, R176). -/

namespace Sys2Proof.Machine

/-! ### The outcomes over `Left` -/

/-- What a decoded slot type leaves. -/
def leftSlotType (s : State) (m : Byte) (n : Nat) : Left := { leftOut s 0 0 0 [m] with st := slotTypeOf m n }

/-- What a failed `GOLAY.DECODE` leaves. -/
def leftSlotFail (s : State) (st : Status) : Left := { leftFail s st with st := .zero }

theorem leaves_leftSlotType (s : State) (m : Byte) (n : Nat) :
    Leaves s ((leftSlotType s m n).apply s) 0x00 false 0 0 0 [m] :=
  Left.leaves (l := leftSlotType s m n) (by simp [leftSlotType, leftOut]) s

theorem leaves_leftSlotFail (s : State) (st : Status) :
    Leaves s ((leftSlotFail s st).apply s) (statusCode st) false 0 0 0 [] :=
  Left.leaves (l := leftSlotFail s st) (Nat.zero_le _) s

section
variable {data : List Byte} {s : State}

theorem exec_golayDecode_of_some {m : Byte} {n : Nat} (hlen : data.length = 21)
    (hd : golayDecode s.cfg (slotGet s.cfg data) = some (m, n)) :
    exec (.golayDecode data) s = .next ((leftSlotType s m n).apply s) := by
  show execGolayDecode data s = _
  rw [execGolayDecode, requireLen_of_eq (n := slotFrame) hlen, hd]
  rfl

theorem exec_golayDecode_of_none (hlen : data.length = 21)
    (hd : golayDecode s.cfg (slotGet s.cfg data) = none) :
    exec (.golayDecode data) s = .next ((leftSlotFail s .fecUncorrectable).apply s) := by
  show execGolayDecode data s = _
  rw [execGolayDecode, requireLen_of_eq (n := slotFrame) hlen, hd]
  rfl

theorem exec_golayDecode_of_length_ne (hlen : data.length ≠ 21) :
    exec (.golayDecode data) s = .next ((leftSlotFail s .invalidLength).apply s) :=
  requireLen_of_ne hlen _ _

/-- A word within radius 3 of a codeword decodes to its byte (R172, R175). -/
theorem exec_golayDecode_of_dist_le (hc : s.cfg.GolayDmin7) {m : Byte} (hlen : data.length = 21)
    (hm : dist (slotGet s.cfg data) (golayCw s.cfg m) ≤ 3) :
    exec (.golayDecode data) s =
      .next ((leftSlotType s m (dist (slotGet s.cfg data) (golayCw s.cfg m))).apply s) :=
  exec_golayDecode_of_some hlen (golayDecode_of_dist_le hc hm)

theorem exec_golayDecode_congr {data' : List Byte} (hlen : data.length = data'.length)
    (h : slotGet s.cfg data = slotGet s.cfg data') : exec (.golayDecode data) s = exec (.golayDecode data') s := by
  show execGolayDecode data s = execGolayDecode data' s
  rw [execGolayDecode, execGolayDecode, h, requireLen, requireLen, hlen]

theorem exec_golayEncode (cc dt : BitVec 4) (hlen : data.length = 21) :
    exec (.golayEncode cc dt data) s =
      .next ((leftOut s 0 0 0 (slotPut s.cfg data (golayCw s.cfg (cc ++ dt)))).apply s) :=
  requireLen_emit hlen (by simp [obufSize]) 0 0 s

end

theorem slotGet_zeros (c : Config) : slotGet c (List.replicate 21 0) = 0 := by
  refine BitVec.eq_of_getMsbD_eq fun k hk => ?_
  have hi : slotPos c k / 8 < 21 := Nat.div_lt_of_lt_mul (slotPos_lt c k)
  rw [getMsbD_slotGet c _ hk, bitAt, List.getD_replicate _ hi]
  simp

/-- Settles O45: the three outcomes by `exec_golayDecode_of_length_ne`, `exec_golayDecode_of_dist_le` and
`golayDecode_eq_none_iff`; the zero frame carries the codeword of 0, as the code is linear. -/
theorem golayDecodeResult : Obligations.GolayDecodeResult := by
  refine ⟨fun data s => ⟨?_, fun hlen => ?_, fun hlen hc => ⟨fun m hm => ?_, fun hfar => ?_⟩⟩,
    fun data data' s hlen hlen' h => ?_, fun s hc => ?_⟩
  · exact encodedN_of_opc (i := .golayDecode data) (by simp [Instr.opc])
  · exact ⟨_, exec_golayDecode_of_length_ne hlen, leaves_leftSlotFail s _, rfl, rfl, rfl⟩
  · exact ⟨_, exec_golayDecode_of_dist_le hc hlen hm, leaves_leftSlotType s _ _, rfl, rfl, rfl,
      toNat_nerr_slotTypeOf m hm, rfl, rfl⟩
  · exact ⟨_, exec_golayDecode_of_none hlen (golayDecode_eq_none_iff.2 hfar), leaves_leftSlotFail s _, rfl, rfl, rfl⟩
  · exact exec_golayDecode_congr (hlen.trans hlen'.symm) (slotGet_congr h)
  · have hdist : dist (slotGet s.cfg (List.replicate 21 0)) (golayCw s.cfg 0) = 0 := by
      rw [slotGet_zeros, golayCw_zero, dist_self]
    refine ⟨_, exec_golayDecode_of_dist_le hc (List.length_replicate ..) (hdist.trans_le (Nat.zero_le 3)), ?_, rfl⟩
    rw [hdist]
    rfl

/-- Settles O46: 21 bytes by `exec_golayEncode` and the bits of `slotPut`, any other number by `requireLen_failure`. -/
theorem golayEncodeResult : Obligations.GolayEncodeResult := by
  refine fun cc dt data s => ⟨fun hlen => ?_, fun hlen => requireLen_failure hlen s _, fun hlen hc => ?_⟩
  · exact (decode_wellFramed _ _ hlen).trans (decodeFields_fields (.golayEncode cc dt data))
  · exact ⟨_, _, exec_golayEncode cc dt hlen, keepsGroups_leftOut .., leaves_leftOut s 0 0 0 (by simp),
      length_slotPut .., fun k hk => bitAt_slotPut_slotPos hc _ _ hk, fun i hi h => bitAt_slotPut_of_ne _ _ hi h⟩

/-- A codeword with at most three errors, laid in any frame, decodes to its byte with the errors counted. -/
theorem exec_golayDecode_slotPut {c : Config} (hc : c.WF) {s : State} (hs : s.cfg = c) (frame : List Byte) (m : Byte)
    {e : Codeword} (he : wt e ≤ 3) :
    exec (.golayDecode (slotPut c frame (golayCw c m ^^^ e))) s = .next ((leftSlotType s m (wt e)).apply s) := by
  subst hs
  have hdist : dist (slotGet s.cfg (slotPut s.cfg frame (golayCw s.cfg m ^^^ e))) (golayCw s.cfg m) = wt e := by
    rw [slotGet_slotPut hc.slot_distinct, dist_xor_left]
  rw [exec_golayDecode_of_dist_le hc.golay_dmin7 (length_slotPut ..) (hdist.trans_le he), hdist]

/-- `GOLAY.DECODE` of a codeword without errors, laid in any frame. -/
theorem exec_golayDecode_slotPut_golayCw {c : Config} (hc : c.WF) {s : State} (hs : s.cfg = c) (frame : List Byte)
    (m : Byte) :
    exec (.golayDecode (slotPut c frame (golayCw c m))) s = .next ((leftSlotType s m 0).apply s) := by
  have hdecode := exec_golayDecode_slotPut hc hs frame m (e := 0#20) (by simp [wt_zero])
  rwa [wt_zero, BitVec.xor_zero] at hdecode

/-- Settles O47: an error pattern by `exec_golayDecode_slotPut`, and what the host reads back of `GOLAY.ENCODE` by
`exec_golayDecode_slotPut_golayCw`. -/
theorem golayCorrectsThreeErrors : Obligations.GolayCorrectsThreeErrors := by
  refine ⟨fun m e frame s hc _ he => ?_, fun cc dt frame s hc hlen => ?_⟩
  · exact ⟨_, exec_golayDecode_slotPut hc rfl frame m he, rfl, rfl, slotTypeOf_cc_append_dt m _,
      toNat_nerr_slotTypeOf m he, (leaves_leftSlotType s m _).firstBytes_eq⟩
  · refine ⟨(leftOut s 0 0 0 (slotPut s.cfg frame (golayCw s.cfg (cc ++ dt)))).apply s, ?_⟩
    rw [(leaves_leftOut s 0 0 0 (by simp)).firstBytes_eq]
    exact ⟨_, exec_golayEncode cc dt hlen, exec_golayDecode_slotPut_golayCw hc rfl frame (cc ++ dt),
      slotTypeOf_append cc dt 0⟩

end Sys2Proof.Machine
end

section
/-! PROOFS. `CSBK.PUT` past its header test as one equation over `Left` (44_csbk.md R196), and the worked examples under
the default parameters. -/

namespace Sys2Proof.Machine

section
variable {data : List Byte} {s : State} {r : BptcResult} (hlen : 2 ≤ data.length) (hw : wakeupOk s.cfg data = true)
  (hr : bptcDecode (padOrTruncate data) = r)
include hlen hw hr

theorem exec_csbkPut_of_some {g : Csbk} (hg : csbkFields s.cfg r.payload = some g) :
    exec (.csbkPut data) s = .next (Left.apply
      { leftOut s r.hamc r.hamu (crc16 r.payload) (crcAppend r.payload) with csbk := g } s) := by
  subst hr
  show execCsbkPut data s = _
  rw [execCsbkPut, requireMinLen_of_le hlen, hw, crcVerify_crcAppend, hg]
  exact emit_of_le (by simp [obufSize]) _

/-- A supported opcode, with its CRC evaluated. -/
theorem exists_leaves_csbkPut {g : Csbk} {crcval : Crc} (hg : csbkFields s.cfg r.payload = some g)
    (hcrc : crc16 r.payload = crcval) :
    ∃ t, exec (.csbkPut data) s = .next t ∧
      Leaves s t 0x00 false r.hamc r.hamu crcval (r.payload ++ [hiByte crcval, loByte crcval]) ∧ t.csbk = g := by
  subst hcrc
  refine ⟨_, exec_csbkPut_of_some hlen hw hr hg, Left.leaves ?_ s, rfl⟩
  simp [leftOut, ← hr]

theorem exec_csbkPut_of_none (hg : csbkFields s.cfg r.payload = none) :
    exec (.csbkPut data) s = .next (Left.apply
      ⟨.unsupportedOpcode, false, r.hamc, r.hamu, crc16 r.payload, [], .zero, s.dh, s.st⟩ s) := by
  subst hr
  show execCsbkPut data s = _
  rw [execCsbkPut, requireMinLen_of_le hlen, hw, crcVerify_crcAppend, hg]
  rfl

end

/-- Settles O59: each command by its equation, with its codec evaluated under the default parameters. -/
theorem defaultWorkedExamples : Obligations.DefaultWorkedExamples := by
  intro s hs
  have hthree : golayDecode s.cfg (slotGet s.cfg
      (List.replicate 12 0x00 ++ [0x24, 0xD0, 0, 0, 0, 0, 0, 0x0A, 0xCC])) = some (0x13, 3) := by
    rw [hs]
    decide +kernel
  have hones : golayDecode s.cfg (slotGet s.cfg (List.replicate 21 0xFF)) = none := by
    rw [hs]
    decide +kernel
  obtain ⟨v, hv, hvl⟩ := exists_leaves_output (exec_golayEncode (s := s) (data := List.replicate 21 0x00) 1 3 rfl)
    (hamc' := 0) (hamu' := 0) (crcval' := 0)
    (out' := List.replicate 12 0x00 ++ [0x04, 0xC0, 0, 0, 0, 0, 0, 0x0A, 0xC8]) (by rw [hs]; decide +kernel) (by decide)
  obtain ⟨w, hw, hwl⟩ := exists_leaves_output (exec_golayEncode (s := s) (data := List.replicate 21 0xFF) 1 3 rfl)
    (hamc' := 0) (hamu' := 0) (crcval' := 0)
    (out' := List.replicate 12 0xFF ++ [0xC4, 0xCF, 0xFF, 0xFF, 0xFF, 0xFF, 0xFF, 0xFA, 0xCB])
    (by rw [hs]; decide +kernel) (by decide)
  obtain ⟨x, hx, hxl, hxg⟩ := exists_leaves_csbkPut (s := s)
    (data := [0x00, 0x03, 0x06, 0x00, 0x34, 0x00, 0x60, 0x00, 0xA0, 0x01, 0x20, 0x00, 0xC0, 0x00, 0x00, 0x04,
        0x00, 0x0C, 0x00, 0x84, 0x01, 0x20, 0x02, 0x30, 0x04, 0, 0, 0, 0, 0, 0, 0, 0])
    (r := ⟨[0x78, 0x00, 0x00, 0x00, 0x1E, 0x2C, 0x32, 0x4A, 0x54, 0x66, 0x00, 0x00], 0, 0⟩)
    (g := { v := true, csbko := 0x38, fid := 0x00, gi := false, cbf := false, ovcm := false, bsid := 0x1E2C32,
            srcid := 0x4A5466, dstid := 0, data := 0x780000001E2C324A546600001E2D })
    (by decide) (by rw [hs]; decide) (by decide +kernel) (by rw [hs]; decide +kernel)
    (show crc16 _ = 0x1E2D by decide +kernel)
  have hbare : csbkFields s.cfg (bptcDecode (padOrTruncate [0x00, 0x03])).payload = none := by
    rw [hs]
    decide +kernel
  exact ⟨_, _, v, w, x, _, exec_golayDecode_of_some (by decide) hthree, rfl, leaves_leftSlotType s _ _,
    exec_golayDecode_of_none (by decide) hones, leaves_leftSlotFail s _, hv, hvl, hw, hwl, hx, hxl, hxg,
    exec_csbkPut_of_none (by decide) (by rw [hs]; decide) rfl hbare, rfl, rfl⟩

end Sys2Proof.Machine
end

section
/-! PROOFS. The outcomes of `CSBK.PUT` (44_csbk.md R190, R195, R196): the dispatch of a payload by its opcode, the
status by the tests in their order, and what a rejected and an accepted frame leave. -/

namespace Sys2Proof.Machine

/-! ### The dispatch on the opcode (R195) -/

section
variable {c : Config} {p : List Byte}

theorem csbkOpcode_eq_extractLsb' (p : List Byte) : csbkOpcode p = (p.getD 0 0#8).extractLsb' 0 6 :=
  BitVec.setWidth_eq_extractLsb' (by decide)

theorem csbkFields_of_bsdwnact (h : csbkOpcode p = c.opcBsdwnact) :
    csbkFields c p = some
      { Csbk.zero with
        v := true, csbko := c.opcBsdwnact, fid := p.getD 1 0#8, bsid := be24 p 4, srcid := be24 p 7
        data := BitVec.ofNat 112 (beNat (crcAppend p)) } := by
  rw [csbkFields, if_pos h, h]

theorem csbkFields_of_uuvreq (h : csbkOpcode p = c.opcUuvreq) (hne : c.opcBsdwnact ≠ c.opcUuvreq) :
    csbkFields c p = some
      { Csbk.zero with
        v := true, csbko := c.opcUuvreq, fid := p.getD 1 0#8, dstid := be24 p 4, srcid := be24 p 7
        ovcm := (p.getD 2 0#8).getLsbD 2, data := BitVec.ofNat 112 (beNat (crcAppend p)) } := by
  rw [csbkFields, if_neg (h ▸ hne.symm), if_pos h, h]

theorem csbkFields_eq_none_iff :
    csbkFields c p = none ↔ csbkOpcode p ≠ c.opcBsdwnact ∧ csbkOpcode p ≠ c.opcUuvreq := by
  unfold csbkFields
  dsimp only
  split_ifs <;> simp_all

end

/-! ### The status and the rejected frames (R190, R196) -/

/-- `STATUS` by the tests of R196 in their order; the test of the fresh trailer is never failed (R193). -/
theorem csbkPut_status {data : List Byte} {s t : State} (h : exec (.csbkPut data) s = .next t) :
    t.status = if data.length < 2 then 0x01 else if wakeupOk s.cfg data = false then 0x05
      else if csbkFields s.cfg (bptcDecode (padOrTruncate data)).payload = none then 0x06 else 0x00 := by
  obtain ⟨hlen, rfl⟩ | ⟨hlen, hw, rfl⟩ | ⟨hlen, hw, ⟨hg, rfl⟩ | ⟨g, hg, rfl⟩⟩ := csbkPut_next h
  · rw [if_pos hlen]
    rfl
  · rw [if_neg (by omega), if_pos hw]
    rfl
  · rw [if_neg (by omega), if_neg (by simp [hw]), if_pos hg]
    rfl
  · rw [if_neg (by omega), if_neg (by simp [hw]), if_neg (by simp [hg])]
    rfl

section
variable {data : List Byte} {s : State}

theorem exec_csbkPut_of_length_lt (hlen : data.length < 2) :
    exec (.csbkPut data) s = .next (setStatus .dataTooShort (prologueCsbk s)) :=
  requireMinLen_of_lt hlen _ _

theorem exec_csbkPut_of_wakeup (hlen : 2 ≤ data.length) (hw : wakeupOk s.cfg data = false) :
    exec (.csbkPut data) s = .next (setStatus .invalidWakeup (prologueCsbk s)) := by
  show execCsbkPut data s = _
  rw [execCsbkPut, requireMinLen_of_le hlen, hw]
  rfl

end

/-- A frame that fails before its payload is read leaves its group zero and nothing else. -/
theorem leaves_csbkRejected (s : State) (st : Status) :
    Leaves s (setStatus st (prologueCsbk s)) (statusCode st) false 0 0 0 [] :=
  leaves_failure s st .zero s.dh s.st

/-! ### What an accepted frame leaves (R195, R196) -/

theorem csbkPut_keeps_others {data : List Byte} {s t : State} (h : exec (.csbkPut data) s = .next t) :
    t.dh = s.dh ∧ t.st = s.st :=
  ⟨exec_keeps_dh h (by simp [Instr.opc]), exec_keeps_st h (by simp [Instr.opc])⟩

/-- The first bytes of `OBUF`, within what a command put out. -/
theorem Leaves.firstBytes_eq_take {s t : State} {status : Byte} {truth : Bool} {hamc hamu : BitVec 24} {crcval : Crc}
    {out : List Byte} (h : Leaves s t status truth hamc hamu crcval out) {n : Nat} (hn : n ≤ out.length) :
    Memory.firstBytes t.obuf n = out.take n := by
  refine List.ext_getElem (by simp [Memory.firstBytes, hn]) fun a ha hout => ?_
  have hlt : a < out.length := by simp at hout; omega
  simp [Memory.firstBytes, h.obuf_eq, hlt]

/-- `CSBK.DATA` of a supported opcode is the payload and its trailer (R193). -/
theorem bytesOfReg_data_of_csbkFields {c : Config} {p : List Byte} {g : Csbk} (hlen : p.length = 12)
    (hg : csbkFields c p = some g) : bytesOfReg 14 g.data = crcAppend p := by
  obtain ⟨-, -, -, -, -, -, hdata⟩ := csbkFields_common hg
  rw [hdata, bytesOfReg_csbkData hlen]

section
variable {data : List Byte} {s : State} (hlen : 2 ≤ data.length) (hw : wakeupOk s.cfg data = true)
include hlen hw

/-- A supported opcode: the group, the output and the masks. -/
theorem csbkPut_accepted {g : Csbk} (hg : csbkFields s.cfg (bptcDecode (padOrTruncate data)).payload = some g) :
    ∃ t, exec (.csbkPut data) s = .next t ∧
      Leaves s t 0x00 false (bptcDecode (padOrTruncate data)).hamc (bptcDecode (padOrTruncate data)).hamu
        (crc16 (bptcDecode (padOrTruncate data)).payload) (crcAppend (bptcDecode (padOrTruncate data)).payload) ∧
      t.csbk = g ∧ bytesOfReg 14 t.csbk.data = Memory.firstBytes t.obuf 14 := by
  obtain ⟨t, ht, hleaves, hcsbk⟩ := exists_leaves_csbkPut hlen hw rfl hg rfl
  refine ⟨t, ht, hleaves, hcsbk, ?_⟩
  rw [hcsbk, bytesOfReg_data_of_csbkFields (length_payload _) hg, hleaves.firstBytes_eq_take (by simp),
    List.take_of_length_le (by simp)]
  rfl

/-- An unsupported opcode: the masks and the CRC of the payload, and nothing else. -/
theorem csbkPut_unsupported (hg : csbkFields s.cfg (bptcDecode (padOrTruncate data)).payload = none) :
    ∃ t, exec (.csbkPut data) s = .next t ∧
      Leaves s t 0x06 false (bptcDecode (padOrTruncate data)).hamc (bptcDecode (padOrTruncate data)).hamu
        (crc16 (bptcDecode (padOrTruncate data)).payload) [] ∧ t.csbk = .zero :=
  ⟨_, exec_csbkPut_of_none hlen hw rfl hg, Left.leaves (Nat.zero_le _) s, rfl⟩

end

/-! ### The obligations -/

/-- Settles O50: an unsupported opcode by `csbkPut_unsupported`, a supported one by `csbkPut_accepted`, with the
group that the dispatch gives for each of the two. -/
theorem csbkPutDispatch : Obligations.CsbkPutDispatch := by
  intro data payload s hlen htag hflags hpayload
  subst hpayload
  have hw : wakeupOk s.cfg data = true := wakeupOk_iff.2 ⟨htag, hflags⟩
  have hop := csbkOpcode_eq_extractLsb' (bptcDecode (padOrTruncate data)).payload
  cases hg : csbkFields s.cfg (bptcDecode (padOrTruncate data)).payload with
  | none =>
    obtain ⟨hb, hu⟩ := csbkFields_eq_none_iff.1 hg
    obtain ⟨t, ht, hleaves, hzero⟩ := csbkPut_unsupported hlen hw hg
    obtain ⟨hdh, hst⟩ := csbkPut_keeps_others ht
    exact ⟨t, _, _, ht, hdh, hst, rfl, rfl, fun h => absurd (hop.trans h) hb,
      fun h _ => absurd (hop.trans h) hu, fun _ _ => ⟨hleaves, hzero⟩⟩
  | some g =>
    obtain ⟨t, ht, hleaves, rfl, hdata⟩ := csbkPut_accepted hlen hw hg
    have hgroup {g' : Csbk} (h : csbkFields s.cfg (bptcDecode (padOrTruncate data)).payload = some g') :
        t.csbk = g' := Option.some.inj (hg.symm.trans h)
    obtain ⟨hdh, hst⟩ := csbkPut_keeps_others ht
    refine ⟨t, _, _, ht, hdh, hst, rfl, rfl, fun h => ⟨hleaves, ?_, hdata⟩,
      fun h hne => ⟨hleaves, ?_, hdata⟩, fun hb hu => ?_⟩
    · rw [hgroup (csbkFields_of_bsdwnact (hop.trans h))]
      rfl
    · rw [hgroup (csbkFields_of_uuvreq (hop.trans h) hne)]
      rfl
    · have hnone := csbkFields_eq_none_iff.2 ⟨fun h => hb (hop.symm.trans h), fun h => hu (hop.symm.trans h)⟩
      exact absurd (hg.symm.trans hnone) (by simp)

/-- Settles O51: the two rejections by their equations; a good header passes the test that `InvalidWakeup` is for. -/
theorem csbkPutRejects : Obligations.CsbkPutRejects := by
  intro data s
  refine ⟨?_, fun hlen => ?_, fun hlen hbad => ?_, fun hlen htag hflags => ?_⟩
  · exact encodedN_of_opc (i := .csbkPut data) (by simp [Instr.opc])
  · exact ⟨_, exec_csbkPut_of_length_lt hlen, leaves_csbkRejected s .dataTooShort, rfl, rfl, rfl⟩
  · have hw : wakeupOk s.cfg data = false := by
      rw [← Bool.not_eq_true, wakeupOk_iff, not_and_or]
      exact hbad
    exact ⟨_, exec_csbkPut_of_wakeup hlen hw, leaves_csbkRejected s .invalidWakeup, rfl, rfl, rfl⟩
  · have hw : wakeupOk s.cfg data = true := wakeupOk_iff.2 ⟨htag, hflags⟩
    obtain ⟨t, ht⟩ := csbkPut_completes data s
    refine ⟨t, ht, ?_⟩
    rw [csbkPut_status ht, if_neg (by omega), if_neg (by simp [hw])]
    split <;> decide

/-- Settles O52: `InvalidCRC` is no status of `csbkPut_status`, and a group that is not zero has the payload and its
trailer in `DATA`. -/
theorem csbkPutNeverInvalidCrc : Obligations.CsbkPutNeverInvalidCrc := by
  refine ⟨fun data => crcVerify_crcAppend _, fun data s t h => ⟨?_, fun hv => ?_⟩⟩
  · rw [csbkPut_status h]
    split_ifs <;> decide
  · obtain ⟨-, hzero⟩ | ⟨-, hg⟩ := csbkPut_group h
    · exact absurd hv (by simp [hzero, Csbk.zero])
    · exact bytesOfReg_data_of_csbkFields (length_payload _) hg

end Sys2Proof.Machine
end

section
/-! PROOFS. The values a corrected payload cannot hold (44_csbk.md R196, 41_bptc.md R131), and the payload of a frame
built by interleaving (44_csbk.md R197). -/

namespace Sys2Proof.Machine

/-! ### Corrected bytes -/

theorem ham8Byte_of_mem_payload {block : List Byte} {b : Byte} (h : b ∈ (bptcDecode block).payload) :
    ham8Byte b = b := by
  rw [payload_eq] at h
  obtain ⟨k, -, rfl⟩ := List.mem_map.1 h
  exact ham8Byte_ham8Byte _

/-- No corrected byte is 0x01, which comes out as 0x00, and none has the low bits 000100, those of no codeword. -/
theorem ham8Byte_fixed_ne : ∀ b : Byte, ham8Byte b = b → b ≠ 0x01 ∧ b.setWidth 6 ≠ 0x04#6 := by decide +kernel

/-- A byte that the correction leaves unchanged is not of the class corrected: what is corrected becomes a codeword. -/
theorem ham8Class_ne_corrected {b : Byte} (h : ham8Byte b = b) : ham8Class b ≠ .corrected := by
  intro hc
  have hb := ham8Byte_mem_hamCodewords b hc
  rw [h, mem_hamCodewords_iff] at hb
  rw [ham8Class, hamClass_eq_corrected_iff] at hc
  omega

theorem extractLsb'_be24_first (bytes : List Byte) (i : Nat) :
    (be24 bytes i).extractLsb' 16 8 = bytes.getD i 0#8 := by
  rw [be24, BitVec.append_assoc, BitVec.extractLsb'_cast]
  exact BitVec.extractLsb'_append_eq_left

/-- Settles O53: the source identity and the opcode of a group that is not zero are read off corrected bytes, which
are none of the bytes of `ham8Byte_fixed_ne`. -/
theorem csbkPutUnreachableResults : Obligations.CsbkPutUnreachableResults := by
  refine ⟨fun data s t h => ?_, fun data b hb => ham8Byte_of_mem_payload hb⟩
  obtain ⟨-, hzero⟩ | ⟨-, hg⟩ := csbkPut_group h
  · rw [hzero]
    exact ⟨by decide, fun _ => by decide⟩
  · obtain ⟨-, -, -, hop, -, hsrc, -⟩ := csbkFields_common hg
    have hbyte {k : Nat} (hk : k < 12) := ham8Byte_fixed_ne _ (ham8Byte_getD_payload (padOrTruncate data) hk)
    refine ⟨fun hid => (hbyte (k := 7) (by decide)).1 ?_, fun _ => ?_⟩
    · rw [← extractLsb'_be24_first, ← hsrc, hid]
      decide
    · rw [hop]
      exact (hbyte (k := 0) (by decide)).2

/-! ### A frame built by interleaving -/

/-- A block of 33 bytes behind the header is taken as it is (R191). -/
theorem padOrTruncate_header (a b : Byte) {block : List Byte} (h : block.length = 33) :
    padOrTruncate (a :: b :: block) = block := by
  refine List.ext_getElem (by simp [h]) fun k hk hk' => ?_
  have hbyte := getD_padOrTruncate (data := a :: b :: block) (h ▸ hk')
  rw [ibuf, Nat.add_comm, List.getD_cons_succ, List.getD_cons_succ, List.getD_eq_getElem _ _ hk,
    List.getD_eq_getElem _ _ hk'] at hbyte
  exact hbyte

/-- Group k of a packed interleaved vector is bits `8k` to `8k + 7` of the vector (41_bptc.md R121, R124). -/
theorem rawGroup_pack_intlv (v : List Bool) (rest : List Byte) {k : Nat} (hk : k < 24) :
    rawGroup (pack (intlv v) ++ rest) k = ofBitsMsb 8 (fun j => v.getD (8 * k + j) false) := by
  refine BitVec.eq_of_getMsbD_eq fun j hj => ?_
  have hi : (8 * k + j) * 181 % 196 < 196 := Nat.mod_lt _ (by decide)
  rw [rawGroup, getMsbD_ofBitsMsb, getMsbD_ofBitsMsb, bitAt, List.getD_append _ _ _ _ (by simp; omega), ← bitAt,
    bitAt_pack, intlv, getD_permute _ _ hi, mul_mul_mod_inverse (by decide) (by omega)]

section
variable {payload rest : List Byte} {tail : List Bool}

/-- The first twelve groups of a frame built from a payload are its bytes. -/
theorem rawGroup_encoded {k : Nat} (hk : k < 12) :
    rawGroup (pack (intlv (bitsOf payload 96 ++ tail)) ++ rest) k = payload.getD k 0#8 := by
  rw [rawGroup_pack_intlv _ _ (by omega)]
  refine BitVec.eq_of_getMsbD_eq fun j hj => ?_
  rw [getMsbD_ofBitsMsb, decide_eq_true hj, Bool.true_and, List.getD_append _ _ _ _ (by simp; omega),
    getD_bitsOf _ _ _ (by omega), show (8 * k + j) / 8 = k by omega, show (8 * k + j) % 8 = j by omega]

variable (hlen : payload.length = 12) (hfix : ∀ b ∈ payload, ham8Byte b = b)
include hlen hfix

theorem ham8Byte_getD_of_fixed {k : Nat} (hk : k < 12) : ham8Byte (payload.getD k 0#8) = payload.getD k 0#8 := by
  rw [List.getD_eq_getElem _ _ (hlen ▸ hk)]
  exact hfix _ (List.getElem_mem _)

theorem payload_encoded : (bptcDecode (pack (intlv (bitsOf payload 96 ++ tail)) ++ rest)).payload = payload := by
  rw [payload_eq]
  refine List.ext_getElem (by simp [hlen]) fun k hk hk' => ?_
  have hk12 : k < 12 := hlen ▸ hk'
  rw [List.getElem_map, List.getElem_range, rawGroup_encoded hk12, ham8Byte_getD_of_fixed hlen hfix hk12,
    List.getD_eq_getElem]

/-- No payload group is reported corrected. -/
theorem hamc_encoded : (bptcDecode (pack (intlv (bitsOf payload 96 ++ tail)) ++ rest)).hamc &&& 0xFFF = 0 := by
  have hmask : ∀ k < 24, (0xFFF#24).getLsbD k = decide (k < 12) := by decide
  refine BitVec.eq_of_getLsbD_eq fun k hk => ?_
  rw [BitVec.getLsbD_and, getLsbD_hamc _ hk]
  by_cases hk12 : k < 12
  · rw [rawGroup_encoded hk12, beq_false_of_ne (ham8Class_ne_corrected (ham8Byte_getD_of_fixed hlen hfix hk12))]
    simp
  · rw [show (0xFFF : BitVec 24).getLsbD k = _ from hmask k hk]
    simp [hk12]

end

/-- Settles O54: the block decodes to the payload (`payload_encoded`), and the dispatch of it is `csbkPutDispatch`. -/
theorem csbkEncodedPayloadDecodes : Obligations.CsbkEncodedPayloadDecodes := by
  intro payload tail8 tail s hlen htail8 _ hfix
  have hpad := padOrTruncate_header s.cfg.tagData s.cfg.wakeupFlags
    (block := pack (intlv (bitsOf payload 96 ++ tail)) ++ tail8) (by simp [htail8])
  have hpayload := payload_encoded (rest := tail8) (tail := tail) hlen hfix
  rw [← hpad] at hpayload
  obtain ⟨t, hamc, hamu, ht, -, -, hhamc, -, hb, -, hother⟩ := csbkPutDispatch _ _ s (by simp) rfl rfl hpayload.symm
  refine ⟨t, ht, fun hop => ?_, fun hop => ?_⟩
  · obtain ⟨hleaves, hcsbk, -⟩ := hb hop
    refine ⟨hleaves.status_eq, by rw [hcsbk], by rw [hcsbk], by rw [hcsbk], by rw [hcsbk], ?_, ?_⟩
    · rw [hleaves.firstBytes_eq_take (by simp [hlen]), List.take_left' hlen]
    · rw [hleaves.hamc_eq, hhamc, hpad, hamc_encoded hlen hfix]
  · obtain ⟨hnb, hnu⟩ : _ ≠ _ ∧ _ ≠ _ := by simpa using hop
    obtain ⟨hleaves, hzero⟩ := hother hnb hnu
    exact ⟨hleaves.status_eq, hzero⟩

end Sys2Proof.Machine
end

section
/-! PROOFS. The frame bytes that `CSBK.PUT` reads: the first 35, a missing one as 0x00 (44_csbk.md R191). -/

namespace Sys2Proof.Machine

theorem exec_csbkPut_congr {data data' : List Byte} (hlen : 2 ≤ data.length) (hlen' : 2 ≤ data'.length)
    (h : ∀ i < 35, ibuf data i = ibuf data' i) (s : State) :
    exec (.csbkPut data) s = exec (.csbkPut data') s := by
  have hblock : padOrTruncate data = padOrTruncate data' := by
    refine List.ext_getElem (by simp) fun k hk hk' => ?_
    rw [length_padOrTruncate] at hk
    rw [← List.getD_eq_getElem _ 0#8, ← List.getD_eq_getElem _ 0#8 hk', getD_padOrTruncate hk,
      getD_padOrTruncate hk, h _ (by omega)]
  have hheader : wakeupOk s.cfg data = wakeupOk s.cfg data' := by
    rw [wakeupOk, h 0 (by decide), h 1 (by decide), wakeupOk]
  show execCsbkPut data s = execCsbkPut data' s
  unfold execCsbkPut
  rw [hblock, hheader, requireMinLen_of_le hlen, requireMinLen_of_le hlen']

/-- A zero byte at the end reads as a missing one. -/
theorem ibuf_append_zeros (data : List Byte) (n i : Nat) : ibuf (data ++ List.replicate n 0) i = ibuf data i := by
  obtain hlt | hge : i < data.length ∨ data.length ≤ i := by omega
  · exact List.getD_append _ _ _ _ hlt
  · rw [ibuf, List.getD_append_right _ _ _ _ hge, ibuf, List.getD_eq_default _ _ hge]
    rw [List.getD_eq_getElem?_getD]
    exact List.getElem?_getD_replicate_default_eq _ _ _

/-- Settles O55: the block byte by byte (`getD_padOrTruncate`), the padding by `exec_csbkPut_congr`, and the cut
at 35 bytes by `csbkPut_take`. -/
theorem csbkPutPadsAndTruncates : Obligations.CsbkPutPadsAndTruncates := by
  refine ⟨fun data i hi => ⟨length_padOrTruncate data, ?_⟩, fun data n s hlen => ?_,
    fun data s => (csbkPut_take data s).symm⟩
  · refine (getD_padOrTruncate hi).trans ?_
    split
    · rfl
    · exact List.getD_eq_default _ _ (by omega)
  · exact exec_csbkPut_congr hlen (by simp; omega) (fun i _ => (ibuf_append_zeros data n i).symm) s

end Sys2Proof.Machine
end

section
/-! PROOFS. The outcomes of `DH.PUT` (45_dataheader.md R210, R211): the block it reads is the first 12 bytes, its
trailer test compares one word, and each outcome is one equation over the state it leaves. -/

namespace Sys2Proof.Machine

/-- A trailer verifies exactly when its two bytes, high byte first, are the CRC (40_crc.md R103). -/
theorem crcVerify_eq_true_iff {bytes : List Byte} :
    crcVerify bytes = true ↔
      bytes.getD (bytes.length - 2) 0#8 ++ bytes.getD (bytes.length - 1) 0#8 = crc16 (crcCovered bytes) := by
  refine ⟨trailer_of_crcVerify, fun h => ?_⟩
  rw [crcVerify, ← h, hiByte, loByte, BitVec.extractLsb'_append_eq_left, BitVec.extractLsb'_append_eq_right,
    beq_self_eq_true, beq_self_eq_true, Bool.true_and]

/-! ### The block of 12 bytes -/

theorem getD_ibufSlice_zero (data : List Byte) {n k : Nat} (hk : k < n) :
    (ibufSlice data 0 n).getD k 0#8 = data.getD k 0#8 :=
  ibuf_take hk data

theorem be24_ibufSlice_zero (data : List Byte) {n k : Nat} (hk : k + 2 < n) :
    be24 (ibufSlice data 0 n) k = be24 data k := by
  rw [be24, getD_ibufSlice_zero data (by omega), getD_ibufSlice_zero data (by omega), getD_ibufSlice_zero data hk, be24]

/-- The fields of the block are those of the data (R210). -/
theorem dhFields_ibufSlice (data : List Byte) :
    dhFields (ibufSlice data 0 dhBlock) =
      { v := true, gi := (data.getD 0 0#8).getLsbD 7, a := (data.getD 0 0#8).getLsbD 6, dstid := be24 data 2,
        srcid := be24 data 5, data := (dhFields (ibufSlice data 0 dhBlock)).data } := by
  rw [← getD_ibufSlice_zero data (n := dhBlock) (by decide), ← be24_ibufSlice_zero data (n := dhBlock) (by decide),
    ← be24_ibufSlice_zero data (n := dhBlock) (by decide)]
  rfl

section
variable {data : List Byte} (hlen : 12 ≤ data.length)
include hlen

/-- The test of the trailer: bytes 10 and 11 against the CRC of the ten before them (R211). -/
theorem crcVerify_dhBlock_iff :
    crcVerify (ibufSlice data 0 dhBlock) = true ↔
      data.getD 10 0#8 ++ data.getD 11 0#8 = crc16 (data.take 10) := by
  rw [crcVerify_eq_true_iff, crcCovered_dhBlock hlen, length_ibufSlice (n := dhBlock) hlen,
    getD_ibufSlice_zero data (by decide), getD_ibufSlice_zero data (by decide)]
  rfl

/-- `DH.DATA` read back is the block (R210). -/
theorem bytesOfReg_dhFields_data : bytesOfReg 12 (dhFields (ibufSlice data 0 dhBlock)).data = data.take 12 := by
  have hblock : (ibufSlice data 0 dhBlock).length = 12 := length_ibufSlice hlen
  have hread := bytesOfReg_reg (w := 96) (bytes := ibufSlice data 0 dhBlock) (by rw [hblock])
  rw [hblock] at hread
  exact hread

end

/-! ### The outcomes -/

section
variable {data : List Byte} (s : State)

theorem exec_dhPut_of_length_lt (hlen : data.length < 12) :
    exec (.dhPut data) s = .next (setStatus .dataTooShort (prologueDh s)) :=
  requireMinLen_of_lt hlen _ _

theorem exec_dhPut_of_mismatch (hlen : 12 ≤ data.length) (hc : crcVerify (ibufSlice data 0 dhBlock) = false) :
    exec (.dhPut data) s = .next (setStatus .invalidCRC (dhChecked data s)) := by
  show execDhPut data s = _
  rw [execDhPut, requireMinLen_of_le (n := dhBlock) hlen, hc]
  rfl

/-- A mismatch leaves the CRC it computed and nothing else. -/
theorem leaves_dhMismatch (hlen : 12 ≤ data.length) :
    Leaves s (setStatus .invalidCRC (dhChecked data s)) 0x03 false 0 0 (crc16 (data.take 10)) [] := by
  rw [← crcCovered_dhBlock hlen]
  exact Left.leaves (l := ⟨.invalidCRC, false, 0, 0, crc16 (crcCovered (ibufSlice data 0 dhBlock)), [], s.csbk, .zero,
    s.st⟩) (Nat.zero_le _) s

/-- A block that verifies: its CRC, its 12 bytes and its fields, the other groups as before. -/
theorem dhPut_accepted (hlen : 12 ≤ data.length) (hc : crcVerify (ibufSlice data 0 dhBlock) = true) :
    ∃ t, exec (.dhPut data) s = .next t ∧ Leaves s t 0x00 false 0 0 (crc16 (data.take 10)) (data.take 12) ∧
      t.dh = dhFields (ibufSlice data 0 dhBlock) ∧ t.csbk = s.csbk ∧ t.st = s.st := by
  refine ⟨_, exec_dhPut hlen hc s, ?_, rfl, rfl, rfl⟩
  rw [← crcCovered_dhBlock hlen]
  exact Left.leaves ((length_ibufSlice (n := dhBlock) hlen).trans_le (by decide)) s

end

/-! ### The corner cases (R211) -/

theorem crc16_ten_zeros : crc16 (List.replicate 10 0) = 0x1EC6 := by decide +kernel

theorem crcVerify_twelve_zeros : crcVerify (ibufSlice (List.replicate 12 0) 0 dhBlock) = false := by
  have hcrc : crc16 ((List.replicate 12 0).take 10) = 0x1EC6 := crc16_ten_zeros
  rw [← Bool.not_eq_true, crcVerify_dhBlock_iff (by decide), hcrc]
  decide

theorem crcVerify_ten_zeros_trailer :
    crcVerify (ibufSlice (List.replicate 10 0 ++ [0x1E, 0xC6]) 0 dhBlock) = true :=
  (crcVerify_dhBlock_iff (by decide)).2 crc16_ten_zeros.symm

/-- Settles O56: the three outcomes by their equations, which of the last two by `crcVerify_dhBlock_iff`; the corner
cases turn on `crc16_ten_zeros`. -/
theorem dhPutResult : Obligations.DhPutResult := by
  refine ⟨fun data s => ⟨?_, fun hlen => ?_, fun hlen hne => ?_, fun hlen heq => ?_⟩,
    fun data s => (dhPut_take data s).symm, crc16_ten_zeros, fun s => ?_⟩
  · exact encodedN_of_opc (i := .dhPut data) (by simp [Instr.opc])
  · exact ⟨_, exec_dhPut_of_length_lt s hlen, leaves_failure s .dataTooShort s.csbk .zero s.st, rfl, rfl, rfl⟩
  · have hc : crcVerify (ibufSlice data 0 dhBlock) = false := by
      rw [← Bool.not_eq_true, crcVerify_dhBlock_iff hlen]
      exact hne
    exact ⟨_, exec_dhPut_of_mismatch s hlen hc, leaves_dhMismatch s hlen, rfl, rfl, rfl⟩
  · obtain ⟨t, ht, hleaves, hdh, hcsbk, hst⟩ := dhPut_accepted s hlen ((crcVerify_dhBlock_iff hlen).2 heq)
    refine ⟨t, ht, hleaves, ?_, ?_, hcsbk, hst⟩
    · rw [hdh]
      exact dhFields_ibufSlice data
    · rw [hdh]
      exact bytesOfReg_dhFields_data hlen
  · obtain ⟨u, hu, hleaves, hdh, -, -⟩ := dhPut_accepted s (by decide) crcVerify_ten_zeros_trailer
    refine ⟨_, u, exec_dhPut_of_mismatch s (by decide) crcVerify_twelve_zeros, rfl, hu, hleaves.status_eq, ?_⟩
    rw [hdh]
    decide

end Sys2Proof.Machine
end

section
/-! PROOFS. `NOP` (46_system.md R220): its encoding, the command that changes nothing, and its refused forms, which are
cases of R74. -/

namespace Sys2Proof.Machine

/-- `NOP` runs no prologue: its state is the one it was given. -/
theorem exec_nop (s : State) : exec .nop s = .next s := rfl

/-- Settles O25: the bytes by the round trip (O1), the effect by `exec_nop`; another `ARG`, or data, is the second or the
third case in which a command is refused (O4). -/
theorem nopDoesNothing : Obligations.NopDoesNothing := by
  refine ⟨rfl, decodeEncodeRoundTrip .nop (Nat.zero_le _), exec_nop, fun arg data rest s hlen hp hform => ?_⟩
  have hcase : (0x00 : Byte) ∉ definedOpcs ∨ ((0x00 : Byte) ≠ 0x31 ∧ arg ≠ 0x00) ∨
      ((0x00 : Byte) = 0x00 ∧ data.length ≠ 0) :=
    .inr (hform.imp (fun harg => ⟨by decide, harg⟩) fun hdata => ⟨rfl, mt List.length_eq_zero_iff.1 hdata⟩)
  obtain ⟨t, hstep, -, hleaves⟩ := (refusedCommandsExactly 0x00 arg data rest s hlen hp).1 hcase
  exact ⟨_, hstep, hleaves.status_eq, BitVec.eq_of_toNat_eq hleaves.olen_eq, hleaves.obuf_eq⟩

end Sys2Proof.Machine
end

section
/-! PROOFS. The end of every event (70_reset_and_hazards.md R260 to R266): which commands run to a next state and with
which codes, that a step takes one event off the port, and what `RESET` leaves. -/

namespace Sys2Proof.Machine

/-! ### Which commands complete (R265) -/

/-- An output longer than `OBUF` has nowhere to go (log 6). -/
theorem emit_of_lt {out : List Byte} (h : obufSize < out.length) (s : State) : emit out s = .fault .obufOverrun :=
  if_neg (Nat.not_le.2 h)

/-- Settles O24: every term but an overlong `CRC.APPEND` completes (`exec_completes`), and the trailer of that one does
not fit. -/
theorem onlyOverlongAppendStops : Obligations.OnlyOverlongAppendStops := by
  refine ⟨fun i s hi => exec_completes_of_wf hi s, fun i s hi => exec_completes hi s, fun data s hlen => ?_⟩
  exact emit_of_lt (by rw [obufSize, length_crcAppend]; omega) _

/-! ### One event in order (R263, R266) -/

/-- No command reads or writes the port. -/
theorem exec_port {i : Instr} {s t : State} (h : exec i s = .next t) : t.port = s.port := by
  by_cases hi : i = .nop
  · subst hi
    cases h
    rfl
  · obtain ⟨l, rfl, -⟩ := exec_left hi h
    exact l.apply_port s

theorem step_of_port_nil {s : State} (hp : s.port = []) : step s = .next s := by
  simp [step, servePort, hp]

/-- Settles O9: of what a step can do (`step_next`), a command keeps what is left of the port by `exec_port`, and the
other cases carry it over. -/
theorem stepConsumesOneEventInOrder : Obligations.StepConsumesOneEventInOrder := by
  refine ⟨fun e rest s t hp h => ?_, fun s hp => step_of_port_nil hp⟩
  obtain ⟨hnil, -⟩ | ⟨e', rest', hp', hcase⟩ := step_next h
  · exact absurd (hp.symm.trans hnil) (by simp)
  · obtain ⟨rfl, rfl⟩ := List.cons.inj (hp.symm.trans hp')
    obtain ⟨bytes, i, u, -, -, hexec, rfl⟩ | ⟨bytes, u, -, rfl, rfl⟩ | ⟨r, rfl⟩ | ⟨-, rfl⟩ := hcase
    · simpa using exec_port hexec
    · simp
    · simp
    · simp

/-! ### A command on the port (R265) -/

/-- A command other than `NOP` leaves one of the eight codes. -/
theorem exec_status_le {i : Instr} {s t : State} (hi : i ≠ .nop) (h : exec i s = .next t) : t.status.toNat ≤ 7 := by
  obtain ⟨l, rfl, -⟩ := exec_left hi h
  exact statusCode_le l.status

/-- Settles O7: the fields make a command, which is well-formed and completes (O6), or are refused with a step; what the
step leaves of the port and the parameters is O9 and O18. -/
theorem everyCommandTerminates : Obligations.EveryCommandTerminates := by
  intro opc arg data rest s hlen hp
  suffices h : ∃ t, step s = .next t ∧ (opc ≠ 0x00 ∨ arg ≠ 0x00 ∨ data.length ≠ 0 → t.status.toNat ≤ 7) by
    obtain ⟨t, ht, hstatus⟩ := h
    exact ⟨t, ht, stepConsumesOneEventInOrder.1 _ rest s t hp ht, stepKeepsConfig s t ht, hstatus⟩
  by_cases hcmd : ∃ i, decodeFields opc arg data = .ok i
  · obtain ⟨i, hi⟩ := hcmd
    obtain ⟨t, ht, hstep⟩ := stepRunsDecodedCommand _ i rest s hp (by rw [decode_wellFramed _ _ hlen, hi])
    refine ⟨_, hstep, fun hne => ?_⟩
    have hnop : i ≠ .nop := by
      rintro rfl
      obtain ⟨rfl, rfl, rfl⟩ := fields_of_decodeFields hi
      simp [Instr.opc, Instr.arg, Instr.data] at hne
    exact (exec_status_le hnop ht : t.status.toNat ≤ 7)
  · rw [step_of_port hp, serve, issueCommand_refused hlen hcmd]
    exact ⟨_, rfl, fun _ => statusCode_le .illegalCommand⟩

/-! ### `RESET` (R260, R261) -/

/-- The registers after `RESET` are those of the reset state. -/
theorem readReg_resetBlock (s : State) (n : Nat) : readReg (resetBlock s) n = readReg State.reset n := rfl

theorem readReg_resetBlock_eq_zero {s : State} {n : Nat} {v : BitVec 112} (h : readReg (resetBlock s) n = some v) :
    v = 0 := by
  by_cases hn : n ∈ regNumbers
  · rw [readReg_resetBlock, resetValuesZero.1 n hn] at h
    exact (Option.some.inj h).symm
  · rw [readReg_eq_none hn] at h
    cases h

/-- Settles O10: the step is `resetBlock`, whose registers are those of the reset state (O11). -/
theorem resetEventZeroesKeepsConfig : Obligations.ResetEventZeroesKeepsConfig := by
  intro rest s hp
  exact ⟨resetBlock (setPort rest s), step_of_port hp, rfl, rfl, fun _ _ hv => readReg_resetBlock_eq_zero hv,
    fun _ => rfl⟩

end Sys2Proof.Machine
end

section
/-! PROOFS. The failures (60_exceptions.md R232, R233): which code each command leaves, and what it has assigned when it
fails. -/

namespace Sys2Proof.Machine

/-! ### A body without a failure of its own -/

/-- The rest of a command, past its length contract, can only end with `OK`. -/
def EndsOk (r : Result) : Prop := ∀ t, r = .next t → t.status = 0x00

theorem endsOk_complete (s : State) : EndsOk (complete s) := by
  rintro _ ⟨⟩
  rfl

theorem endsOk_emit (out : List Byte) (s : State) : EndsOk (emit out s) := by
  intro t h
  obtain ⟨-, rfl⟩ := emit_next h
  rfl

section
variable {n : Nat} {data : List Byte} {u t : State} {r : Result} (hr : EndsOk r)
include hr

theorem EndsOk.requireLen_status (h : requireLen n data u r = .next t) :
    t.status = if data.length ≠ n then 0x02 else 0x00 := by
  obtain ⟨hlen, h⟩ | ⟨hlen, rfl⟩ := requireLen_next h
  · rw [if_neg (not_not.2 hlen), hr t h]
  · rw [if_pos hlen]
    rfl

theorem EndsOk.requireMinLen_status (h : requireMinLen n data u r = .next t) :
    t.status = if data.length < n then 0x01 else 0x00 := by
  obtain ⟨hlen, h⟩ | ⟨hlen, rfl⟩ := requireMinLen_next h
  · rw [if_neg (Nat.not_lt.2 hlen), hr t h]
  · rw [if_pos hlen]
    rfl

/-- Such a command fails only by its contract, before it has assigned anything. -/
theorem EndsOk.requireLen_failed (h : requireLen n data u r = .next t) (hst : t.status ≠ 0x00) :
    t = setStatus .invalidLength u := by
  obtain ⟨-, h⟩ | ⟨-, h⟩ := requireLen_next h
  · exact absurd (hr t h) hst
  · exact h

theorem EndsOk.requireMinLen_failed (h : requireMinLen n data u r = .next t) (hst : t.status ≠ 0x00) :
    t = setStatus .dataTooShort u := by
  obtain ⟨-, h⟩ | ⟨-, h⟩ := requireMinLen_next h
  · exact absurd (hr t h) hst
  · exact h

end

/-! ### The status of each command (R233) -/

/-- A command with an exact length and no other test (all of them but `GOLAY.DECODE`). -/
theorem exec_exactLength_status {i : Instr} {n : Nat} {s t : State} (h : exec i s = .next t)
    (hn : (i.opc, n) ∈ exactLengths) (hgolay : i.opc ≠ 0x30) :
    t.status = if i.data.length ≠ n then 0x02 else 0x00 := by
  cases i with
  | nop | crcAppend _ | crcVerify _ | csbkPut _ | dhPut _ => simp [exactLengths, Instr.opc] at hn
  | golayDecode data => exact absurd rfl hgolay
  | rsCheck data =>
    obtain rfl : n = 12 := by simpa [exactLengths, Instr.opc] using hn
    exact (endsOk_complete _).requireLen_status h
  | _ =>
    obtain rfl : n = _ := by simpa [exactLengths, Instr.opc] using hn
    exact (endsOk_emit _ _).requireLen_status h

theorem golayDecode_status {data : List Byte} {s t : State} (h : exec (.golayDecode data) s = .next t) :
    t.status = if data.length ≠ 21 then 0x02
      else if ∃ m, dist (slotGet s.cfg data) (golayCw s.cfg m) ≤ 3 then 0x00 else 0x04 := by
  obtain ⟨hlen, rfl⟩ | ⟨hlen, ⟨hd, rfl⟩ | ⟨m, n, hd, rfl⟩⟩ := golayDecode_next h
  · rw [if_pos hlen]
    rfl
  · have hfar := golayDecode_eq_none_iff.1 hd
    rw [if_neg (not_not.2 hlen), if_neg (fun ⟨m, hm⟩ => Nat.not_le.2 (hfar m) hm)]
    rfl
  · obtain ⟨rfl, hnear⟩ := golayDecode_some hd
    rw [if_neg (not_not.2 hlen), if_pos ⟨m, hnear⟩]
    rfl

theorem dhPut_status {data : List Byte} {s t : State} (h : exec (.dhPut data) s = .next t) :
    t.status = if data.length < 12 then 0x01
      else if data.getD 10 0#8 ++ data.getD 11 0#8 ≠ crc16 (data.take 10) then 0x03 else 0x00 := by
  obtain ⟨hlen, rfl⟩ | ⟨hlen, ⟨hc, rfl⟩ | ⟨hc, rfl⟩⟩ := dhPut_next h
  · rw [if_pos hlen]
    rfl
  · rw [← Bool.not_eq_true, crcVerify_dhBlock_iff hlen] at hc
    rw [if_neg (Nat.not_lt.2 hlen), if_pos hc]
    rfl
  · rw [crcVerify_dhBlock_iff hlen] at hc
    rw [if_neg (Nat.not_lt.2 hlen), if_neg (not_not.2 hc)]
    rfl

/-- The header test of `CSBK.PUT`, as its two bytes (44_csbk.md R190). -/
theorem wakeupOk_eq_false_iff {c : Config} {data : List Byte} :
    wakeupOk c data = false ↔ data.getD 0 0 ≠ c.tagData ∨ data.getD 1 0 ≠ c.wakeupFlags := by
  rw [← Bool.not_eq_true, wakeupOk_iff, not_and_or]

/-- `csbkPut_status` with the header test and the dispatch written out (44_csbk.md R190, R195). -/
theorem csbkPut_status_by_opcode {data : List Byte} {s t : State} (h : exec (.csbkPut data) s = .next t) :
    t.status = if data.length < 2 then 0x01
      else if data.getD 0 0 ≠ s.cfg.tagData ∨ data.getD 1 0 ≠ s.cfg.wakeupFlags then 0x05
      else if csbkOpcode (bptcDecode (padOrTruncate data)).payload ∈ [s.cfg.opcBsdwnact, s.cfg.opcUuvreq]
        then 0x00 else 0x06 := by
  simp only [csbkPut_status h, wakeupOk_eq_false_iff, csbkFields_eq_none_iff, ne_eq, ← not_or, ite_not, List.mem_pair]

/-- Settles O21: each command by the test it has beside its length contract (`EndsOk` where it has none); a refused
command takes its step whatever its length and data (O4). -/
theorem oneStatusPerCommand : Obligations.OneStatusPerCommand := by
  refine ⟨fun i s t h hi => ?_, fun opc arg data rest s hlen hp hcase => ?_⟩
  · have hexact (n : Nat) := exec_exactLength_status (n := n) h
    cases i with
    | nop => exact absurd rfl hi
    | crcAppend data => simpa [Instr.opc] using endsOk_emit _ _ t h
    | crcVerify data => simpa [Instr.opc, Instr.data] using (endsOk_complete _).requireMinLen_status h
    | golayDecode data => 
      simpa [Instr.opc, Instr.data] using
        (golayDecode_status h : t.status = if (Instr.golayDecode data).data.length ≠ 21 then _ else _)
    | csbkPut data => simpa [Instr.opc, Instr.data] using csbkPut_status_by_opcode h
    | dhPut data => simpa [Instr.opc, Instr.data] using dhPut_status h
    | bptcExtract _ | bptcDeint _ | bptcIntlv _ | bptcHam8 _ | bptcDecode _ | gfMul _ | rsEncode _ | rsCheck _
    | golayEncode _ _ _ => simpa [exactLengths, Instr.opc] using hexact
  · obtain ⟨t, ht, -, hleaves⟩ := (refusedCommandsExactly opc arg data rest s hlen hp).1 hcase
    exact ⟨_, ht, hleaves.status_eq⟩

/-! ### What a failure leaves (R232) -/

/-- `HAMC`, `HAMU` and `CRCVAL` as they were assigned before a command raised this code: by `CSBK.PUT` before
`UnsupportedOpcode`, by `DH.PUT` before `InvalidCRC`, and else not since the prologue. -/
def assignedBeforeRaise (status : Byte) (data : List Byte) : BitVec 24 × BitVec 24 × Crc :=
  if status = 0x06 then
    ((bptcDecode (padOrTruncate data)).hamc, (bptcDecode (padOrTruncate data)).hamu,
      crc16 (bptcDecode (padOrTruncate data)).payload)
  else if status = 0x03 then (0, 0, crc16 (data.take 10))
  else (0, 0, 0)

theorem csbkPut_failed {data : List Byte} {s t : State} (h : exec (.csbkPut data) s = .next t)
    (hst : t.status ≠ 0x00) : (t.hamc, t.hamu, t.crcval) = assignedBeforeRaise t.status data := by
  obtain ⟨-, rfl⟩ | ⟨-, -, rfl⟩ | ⟨-, -, ⟨-, rfl⟩ | ⟨g, -, rfl⟩⟩ := csbkPut_next h
  · rfl
  · rfl
  · rfl
  · exact absurd rfl hst

theorem dhPut_failed {data : List Byte} {s t : State} (h : exec (.dhPut data) s = .next t)
    (hst : t.status ≠ 0x00) : (t.hamc, t.hamu, t.crcval) = assignedBeforeRaise t.status data := by
  obtain ⟨-, rfl⟩ | ⟨hlen, ⟨-, rfl⟩ | ⟨-, rfl⟩⟩ := dhPut_next h
  · rfl
  · rw [(leaves_dhMismatch s hlen).crcval_eq]
    rfl
  · exact absurd rfl hst

theorem golayDecode_failed {data : List Byte} {s t : State} (h : exec (.golayDecode data) s = .next t)
    (hst : t.status ≠ 0x00) : (t.hamc, t.hamu, t.crcval) = assignedBeforeRaise t.status data := by
  obtain ⟨-, rfl⟩ | ⟨-, ⟨-, rfl⟩ | ⟨m, n, -, rfl⟩⟩ := golayDecode_next h
  · rfl
  · rfl
  · exact absurd rfl hst

/-- Only `CSBK.PUT` and `DH.PUT` assign a mask or a CRC before a failure; any other command that fails does so straight
after its prologue. -/
theorem exec_failed_assigned {i : Instr} {s t : State} (hi : i ≠ .nop) (h : exec i s = .next t)
    (hst : t.status ≠ 0x00) : (t.hamc, t.hamu, t.crcval) = assignedBeforeRaise t.status i.data := by
  cases i with
  | nop => exact absurd rfl hi
  | crcAppend data => exact absurd (endsOk_emit _ _ t h) hst
  | crcVerify data =>
    rw [(endsOk_complete _).requireMinLen_failed h hst]
    rfl
  | rsCheck data =>
    rw [(endsOk_complete _).requireLen_failed h hst]
    rfl
  | golayDecode data => exact golayDecode_failed h hst
  | csbkPut data => exact csbkPut_failed h hst
  | dhPut data => exact dhPut_failed h hst
  | bptcExtract _ | bptcDeint _ | bptcIntlv _ | bptcHam8 _ | bptcDecode _ | gfMul _ | rsEncode _ | golayEncode _ _ _ =>
    rw [(endsOk_emit _ _).requireLen_failed h hst]
    rfl

/-- Settles O20: what holds of every failure is in `Left.Fits`; the masks and the CRC are `exec_failed_assigned`. -/
theorem failureEffect : Obligations.FailureEffect := by
  intro i s t hi h hst
  have hassigned := exec_failed_assigned hi h hst
  obtain ⟨l, rfl, hfits⟩ := exec_left hi h
  have hfailed : l.status ≠ .ok := fun hok => hst (statusCode_eq_zero.2 hok)
  obtain ⟨htruth, hout⟩ := hfits.failure_empty hfailed
  refine ⟨htruth, by simp [hout], fun a => ?_, ?_, ?_, ?_, hassigned⟩
  · rw [(l.leaves hfits.out_le s).obuf_eq, hout]
    rfl
  · split
    case isTrue hopc => exact hfits.csbk_failed hopc hfailed
    case isFalse hopc => exact hfits.csbk_other hopc
  · split
    case isTrue hopc => exact hfits.dh_failed hopc hfailed
    case isFalse hopc => exact hfits.dh_other hopc
  · split
    case isTrue hopc => exact hfits.st_failed hopc hfailed
    case isFalse hopc => exact hfits.st_other hopc

end Sys2Proof.Machine
end
